-- ==== Sys2Proof/Word.lean ====
section
/-! DEFINITION. The fixed-width values of ETHCODEC (00_scope.md section 5): words, bytes, addresses, byte sequences. -/

namespace Sys2Proof

/-- A register-wide value: "Every register is 32 bits wide" (R30). -/
abbrev Word := BitVec 32

/-- One byte of a buffer or of a frame, the spec's `u8`. -/
abbrev Byte := BitVec 8

/-- A 16-bit field of a frame, the spec's `u16` (tag body, EtherType). -/
abbrev Half := BitVec 16

/-- A hardware address as a 48-bit value, byte 0 most significant (R22, R37). -/
abbrev MacAddr := BitVec 48

/-- A bus address: "18-bit byte addresses 0x00000 to 0x3FFFF" (R50). -/
abbrev BusAddr := BitVec 18

/-- The spec's `Bytes`: a finite sequence of bytes, index 0 first on the wire. -/
abbrev Bytes := List Byte

end Sys2Proof
end

