-- ==== Sys2Proof/Config.lean ====
section
/-! DEFINITION. What an implementation of ETHCODEC fixes (the OPEN parameters of 00_scope.md R3 and R4) and the free values
the spec leaves open (70_reset_and_hazards.md R241). -/

namespace Sys2Proof

/-- The OPEN parameters a model takes as arguments (R3, R4). They stand in State as plain data, so that every statement
about all states is a statement about all parameters (log entry 2). -/
structure Params where
  /-- BUF_BYTES, the capacity in bytes of each of IBUF and OBUF (R3). -/
  bufBytes : Nat
  /-- MAX_TAGS, the number of entries of VLAN[] (R4). -/
  maxTags : Nat
  deriving DecidableEq, Repr

/-- The largest parameters R3 and R4 allow. DESIGN CHOICE (log entry 2): only `State.reset` uses them, because it takes no
argument. -/
def Params.largest : Params := { bufBytes := 65536, maxTags := 16384 }

/-- The free draws of R241: what a host read returns while the location's value is not fixed, for the command issued as the
n-th one and the bus address read. It has no body, so nothing can be proved of its values (log entry 6). -/
opaque Config.freeDraw : Nat → BusAddr → Word

end Sys2Proof
end

