-- ==== Sys2Proof/Syntax.lean ====
section
/-! DEFINITION. The six commands of ETHCODEC (30_encoding.md R91), one constructor per row of spec/opcode_table.json.
A command has no operand field (R88): its operands are the registers and buffers its rule names. -/

namespace Sys2Proof

/-- A command of the block (R91). -/
inductive Instr where
  /-- VLAN_ENC (R103): encode TAG into a tag body in OBUF. -/
  | vlanEnc
  /-- VLAN_DEC (R104): decode the tag body in IBUF into TAG. -/
  | vlanDec
  /-- FRM_ENC (R125): encode the frame registers and the IBUF payload into OBUF. -/
  | frmEnc
  /-- FRM_DEC (R149): decode the frame in IBUF into the frame registers and OBUF. -/
  | frmDec
  /-- FRM_ENC_FCS (R175): as FRM_ENC, then append the FCS. -/
  | frmEncFcs
  /-- FRM_DEC_FCS (R176): verify the FCS of IBUF, then decode as FRM_DEC. -/
  | frmDecFcs
  deriving DecidableEq, Repr

end Sys2Proof
end

