-- ==== Sys2Proof/WellFormed.lean ====
section
/-! DEFINITION. What makes a command word legal (30_encoding.md R88, R89), what makes a command well-formed, and what makes
the parameters legal (00_scope.md R3, R4). -/

namespace Sys2Proof

/-- R89: "A CMD word is illegal if OP = 0, if OP = 7, or if any of bits [31:3] is 1." This is the legal rest. -/
def CmdWord.wf (w : Word) : Bool :=
  w.extractLsb' 0 3 != 0#3 && w.extractLsb' 0 3 != 7#3 && w.extractLsb' 3 29 == 0#29

/-- A command has no immediate and no register field (R88), so every constructor is well-formed as it stands. -/
def Instr.wf : Instr → Bool
  | .vlanEnc => true
  | .vlanDec => true
  | .frmEnc => true
  | .frmDec => true
  | .frmEncFcs => true
  | .frmDecFcs => true

/-- R3: `64 <= BUF_BYTES <= 65536`. R4: `MAX_TAGS >= max(1, floor((BUF_BYTES - 56) / 4))` and `MAX_TAGS <= 16384`. -/
def Params.wf (p : Params) : Bool :=
  64 ≤ p.bufBytes && p.bufBytes ≤ 65536 && max 1 ((p.bufBytes - 56) / 4) ≤ p.maxTags && p.maxTags ≤ 16384

end Sys2Proof
end

