-- ==== Sys2Proof/Decode.lean ====
section
/-! DEFINITION. The command decoder and encoder (30_encoding.md R88 to R91). "A decoder is total: every 32-bit word is one of
the six commands or illegal" (R91). -/

namespace Sys2Proof

/-- Why a CMD word is illegal (R89). -/
inductive IllegalWord where
  /-- OP = 0. -/
  | opZero
  /-- OP = 7. -/
  | opSeven
  /-- Some bit of [31:3] is 1. -/
  | highBits
  deriving DecidableEq, Repr

/-- What a CMD word is (R91): a command, or illegal for a named reason. -/
inductive Decoded where
  | command (i : Instr)
  | illegal (why : IllegalWord)
  deriving DecidableEq, Repr

/-- OP, bits [2:0] of a command word (R88). -/
def cmdOp (w : Word) : BitVec 3 := w.extractLsb' 0 3

/-- Bits [31:3] of a command word, which must be zero (R88). -/
def cmdHigh (w : Word) : BitVec 29 := w.extractLsb' 3 29

/-- The opcode map of R91 on the three bits of OP. -/
def decodeOp (op : BitVec 3) : Decoded :=
  match op.toFin with
  | 0 => .illegal .opZero
  | 1 => .command .vlanEnc
  | 2 => .command .vlanDec
  | 3 => .command .frmEnc
  | 4 => .command .frmDec
  | 5 => .command .frmEncFcs
  | 6 => .command .frmDecFcs
  | 7 => .illegal .opSeven

/-- The command decoder (R89, R91). -/
def decode (w : Word) : Decoded :=
  if cmdHigh w = 0#29 then decodeOp (cmdOp w) else .illegal .highBits

/-- The CMD word that selects a command (R91, the second column of its table). -/
def encode : Instr → Word
  | .vlanEnc => 0x00000001#32
  | .vlanDec => 0x00000002#32
  | .frmEnc => 0x00000003#32
  | .frmDec => 0x00000004#32
  | .frmEncFcs => 0x00000005#32
  | .frmDecFcs => 0x00000006#32

/-- The command the decoder reads from a table row's bits, numbered as spec/opcode_table.json numbers them: the CMD word is
one 32-bit word with no byte order of its own (R56, R88). -/
def decodeTableWord (nbits w : Nat) : Option Instr :=
  if w % 2 ^ nbits < 2 ^ 32 then
    match decode (BitVec.ofNat 32 (w % 2 ^ nbits)) with
    | .command i => some i
    | .illegal _ => none
  else none

/-! Every constructor's decoding, by the word written out from R91's table (OP in bits [2:0], bits [31:3] zero). -/

theorem decode_vlanEnc : decode 0b00000000000000000000000000000001#32 = .command .vlanEnc := by decide
theorem decode_vlanDec : decode 0b00000000000000000000000000000010#32 = .command .vlanDec := by decide
theorem decode_frmEnc : decode 0b00000000000000000000000000000011#32 = .command .frmEnc := by decide
theorem decode_frmDec : decode 0b00000000000000000000000000000100#32 = .command .frmDec := by decide
theorem decode_frmEncFcs : decode 0b00000000000000000000000000000101#32 = .command .frmEncFcs := by decide
theorem decode_frmDecFcs : decode 0b00000000000000000000000000000110#32 = .command .frmDecFcs := by decide

end Sys2Proof
end

