-- ==== Sys2Proof/Machine/State.lean ====
section
/-! DEFINITION. The state of one ETHCODEC instance (10_state.md R24), the value types of the core (R21, R22), the host's
statements (30_encoding.md R92, R93), the model's faults and refusals (60_exceptions.md R212) and the state after reset
(70_reset_and_hazards.md R230). -/

namespace Sys2Proof.Machine

/-! The value types of the core. -/

/-- R21: a VLAN tag is exactly a 3-bit priority, the drop-eligible flag and a 12-bit VLAN ID. -/
structure VlanTag where
  pri : BitVec 3
  dei : BitVec 1
  vid : BitVec 12
  deriving DecidableEq, Repr

/-- R22: a frame; `vlan` lists the outermost tag first and may be empty, `payload` has any length. -/
structure Frame where
  dst : MacAddr
  src : MacAddr
  vlan : List VlanTag
  etype : Half
  payload : Bytes
  deriving DecidableEq, Repr

/-- The error kinds a core function returns (R6, R200). They carry no value. -/
inductive ErrKind where
  | invalidVlanId
  | truncatedInput
  | checksumMismatch
  deriving DecidableEq, Repr

/-- R6: a core function returns `ok v` or `err e`, and nothing else. -/
inductive Result (α : Type) where
  | ok (v : α)
  | err (e : ErrKind)
  deriving DecidableEq, Repr

/-- The kinds a completion reports in STATUS.ERR (R200): a core function's, or IllegalCommand, "wrapper only, never raised
by a core function". -/
inductive CmdError where
  | core (e : ErrKind)
  | illegalCommand
  deriving DecidableEq, Repr

/-! The host's side of the bus. -/

/-- The width of a bus access (R51). -/
inductive Width where
  | w8
  | w16
  | w32
  deriving DecidableEq, Repr

/-- One bus access of the host. A narrow write carries its data in the low bits (log entry 17). -/
inductive BusAccess where
  | write (width : Width) (addr : BusAddr) (data : Word)
  | read (width : Width) (addr : BusAddr)
  deriving DecidableEq, Repr

/-- One statement of a host program: a bus access (R92), the polling loop WAIT (R93), or the reset input (R66, R230). -/
inductive HostStmt where
  | access (a : BusAccess)
  | wait
  | reset
  deriving DecidableEq, Repr

/-- A value the host has read, with the address it read. A byte is widened with zeros. -/
structure HostRead where
  addr : BusAddr
  value : Word
  deriving DecidableEq, Repr

/-- The two agents of R61 and R66. -/
inductive Agent where
  | host
  | block
  deriving DecidableEq, Repr

/-! The state. -/

/-- STATUS without its reserved bits (R32). -/
structure Status where
  busy : Bool
  ok : Bool
  err : BitVec 3
  deriving DecidableEq, Repr

/-- R24: the architectural state of one instance, then the model's own fields. A register holds its defined fields only
(R43; log entry 11). `none`, and an index a list does not list, is the spec's "no value" (R25; log entry 1). -/
structure State where
  /-- STATUS (R32). -/
  status : Status
  /-- PEND: the command word issued and not yet completed (R44). -/
  pend : Option Word
  /-- ILEN bits [16:0] (R33). -/
  ilen : BitVec 17
  /-- OLEN bits [16:0] (R34). -/
  olen : BitVec 17
  /-- IBUF by index, the bytes that hold a value, indices strictly rising (R35). -/
  ibuf : List Host.Cell
  /-- OBUF by index, the bytes that hold a value, indices strictly rising (R36). -/
  obuf : List Host.Cell
  /-- DST_H bits [15:0] (R37). -/
  dstH : Option Half
  /-- DST_L (R37). -/
  dstL : Option Word
  /-- SRC_H bits [15:0] (R37). -/
  srcH : Option Half
  /-- SRC_L (R37). -/
  srcL : Option Word
  /-- ETYPE bits [15:0] (R38). -/
  etype : Option Half
  /-- VCOUNT bits [15:0] (R39). -/
  vcount : Half
  /-- TAG, the fields of its VTAG format (R40, R90). -/
  tag : Option VlanTag
  /-- VLAN[] by index, the entries that hold a value, indices strictly rising (R41). -/
  vlan : List (Nat × VlanTag)
  /-- The model's own: BUF_BYTES and MAX_TAGS, taken as an argument (R3, R4; log entry 2). -/
  params : Params
  /-- The model's own: how many commands have been issued; it names the free draws of R241 (log entry 6). -/
  issues : Nat
  /-- The model's own: the host statements still to be performed, in program order (R61, R92; log entry 4). -/
  program : List HostStmt
  /-- The model's own: what the host has read, oldest first (log entry 5). -/
  reads : List HostRead
  /-- The model's own: whose move comes next, for as long as it lasts; it stands for LATENCY (R5, R244; log entry 3). -/
  turns : List Agent
  deriving DecidableEq, Repr

/-- R230 for every value of the parameters: STATUS 0, PEND none, ILEN, OLEN and VCOUNT 0, every other location no value.
The host's side is empty: a program is loaded from outside (log entry 4). -/
def State.resetWith (p : Params) : State where
  status := { busy := false, ok := false, err := 0#3 }
  pend := none
  ilen := 0#17
  olen := 0#17
  ibuf := []
  obuf := []
  dstH := none
  dstL := none
  srcH := none
  srcL := none
  etype := none
  vcount := 0#16
  tag := none
  vlan := []
  params := p
  issues := 0
  program := []
  reads := []
  turns := []

/-- The machine right after reset (R230), with the largest parameters (DESIGN CHOICE, log entry 2). -/
def State.reset : State := State.resetWith Params.largest

/-! How a step can stop. -/

/-- The model's faults (R212). -/
inductive Fault where
  /-- Raised by a command that reads an operand location, and by a host read of a location, that holds no value (R25, R212,
  D16); not by a read of a result location of the pending command (R241). Safe: no claim goes past it. -/
  | unwrittenRead
  /-- Raised by a host write of any location, CMD included, while STATUS.BUSY = 1 (R240). Safe: no claim goes past it. -/
  | busyWrite
  deriving DecidableEq, Repr

/-- The model's refusals (R212). -/
inductive Refusal where
  /-- Raised by FRM_ENC and FRM_ENC_FCS when the output would exceed BUF_BYTES (R125, R175). Safe. -/
  | oversize
  /-- Raised by a bus access of the wrong width or alignment (R51). Safe. -/
  | badAccess
  /-- Raised by a host write of ILEN > BUF_BYTES or VCOUNT > MAX_TAGS (R33, R39). Safe. -/
  | illegalValue
  /-- Raised by an arm of `exec` whose instruction has no meaning yet; no arm of this model does. Safe. -/
  | notModelled (mnemonic : String)
  deriving DecidableEq, Repr

end Sys2Proof.Machine
end

