-- ==== Sys2Proof/Machine/Flags.lean ====
section
/-! DEFINITION. The flags: the fields of STATUS, the only flags of the block (R28), with every value they are given (R31, R205,
R206), the error codes (R200) and the STATUS word (R32). -/

namespace Sys2Proof.Machine

/-- The STATUS.ERR code of an error kind (R200). -/
def CmdError.code : CmdError → BitVec 3
  | .core .invalidVlanId => 1#3
  | .core .truncatedInput => 2#3
  | .core .checksumMismatch => 3#3
  | .illegalCommand => 4#3

/-- STATUS at issue (R28, R31): BUSY = 1, OK = 0, ERR = 0. -/
def Status.issued : Status := { busy := true, ok := false, err := 0#3 }

/-- STATUS after a success (R206): BUSY = 0, OK = 1, ERR = 0. -/
def Status.succeeded : Status := { busy := false, ok := true, err := 0#3 }

/-- STATUS after an error (R205): BUSY = 0, OK = 0, ERR = code(e). -/
def Status.failed (e : CmdError) : Status := { busy := false, ok := false, err := e.code }

/-- The STATUS register as the host reads it (R32): BUSY in bit 0, OK in bit 1, ERR in bits [4:2], bits [31:5] read 0. -/
def Status.word (st : Status) : Word :=
  0#27 ++ st.err ++ BitVec.ofBool st.ok ++ BitVec.ofBool st.busy

/-- R32, legal values: "BUSY = 1 only with OK = 0 and ERR = 0; OK = 1 only with ERR = 0"; codes 5, 6 and 7 are never written
(R200). -/
def Status.legal (st : Status) : Bool :=
  (!st.busy || (!st.ok && st.err == 0#3)) && (!st.ok || st.err == 0#3) && st.err.toNat ≤ 4

end Sys2Proof.Machine
end

