-- ==== Sys2Proof/Machine/Ops.lean ====
section
/-! DEFINITION. The named operations over the state: reading and writing indexed storage, issuing a command (R31), completing
one (R205, R206), the writes of a result (R36, R41, R149), the reset input (R230, R231), and taking an agent's turn. -/

namespace Sys2Proof.Machine

/-! Indexed storage: a list of index and value pairs, indices strictly rising; an unlisted index holds no value (R25). -/

/-- The canonical form of indexed storage. An unlisted index reads as no value, and no entry can equal that. -/
abbrev Memory.wf {α : Type} (m : List (Nat × α)) : Prop := m.Pairwise (fun x y => x.1 < y.1)

/-- What an index holds: a value, or no value (R25). -/
def Memory.read {α : Type} : List (Nat × α) → Nat → Option α
  | [], _ => none
  | (k, v) :: rest, i => if k = i then some v else Memory.read rest i

/-- Gives an index a value, keeping the canonical form. -/
def Memory.write {α : Type} : List (Nat × α) → Nat → α → List (Nat × α)
  | [], i, v => [(i, v)]
  | (k, u) :: rest, i, v =>
    if i < k then (i, v) :: (k, u) :: rest
    else if i = k then (i, v) :: rest
    else (k, u) :: Memory.write rest i v

/-- The storage that holds `xs` at the indices from `i` on, and no value anywhere else. -/
def Memory.ofList {α : Type} : Nat → List α → List (Nat × α)
  | _, [] => []
  | i, x :: xs => (i, x) :: Memory.ofList (i + 1) xs

/-- The values at the `n` indices from `i` on, or none if one of them holds no value. -/
def Memory.readRun {α : Type} (m : List (Nat × α)) : Nat → Nat → Option (List α)
  | _, 0 => some []
  | i, n + 1 =>
    match Memory.read m i, Memory.readRun m (i + 1) n with
    | some v, some vs => some (v :: vs)
    | _, _ => none

/-! Issue and completion. -/

/-- R31: a CMD write issues the command its word encodes: PEND <- w, STATUS <- BUSY = 1, OK = 0, ERR = 0. -/
def issue (w : Word) (s : State) : State :=
  { s with pend := some w, status := Status.issued, issues := s.issues + 1 }

/-- R205: the completion of a command that fails. "Nothing else changes." -/
def completeErr (e : CmdError) (s : State) : State :=
  { s with status := Status.failed e, pend := none }

/-- R206: the completion of a command that succeeds, after the writes its rule lists. -/
def completeOk (s : State) : State :=
  { s with status := Status.succeeded, pend := none }

/-! The writes of a result. -/

/-- R36: OBUF[i] <- r[i], OLEN <- len(r), and every OBUF byte at index len(r) or above holds no value. -/
def writeOutput (r : Bytes) (s : State) : State :=
  { s with obuf := Memory.ofList 0 r, olen := BitVec.ofNat 17 r.length }

/-- R104: TAG <- tagToVtag(t). -/
def writeTag (t : VlanTag) (s : State) : State := { s with tag := some t }

/-- R149: the writes of FRM_DEC on `ok f`: the address registers, ETYPE, VCOUNT, VLAN[] (no value at the indices from the
tag count on, R41), then the payload as output. -/
def writeFrame (f : Frame) (s : State) : State :=
  writeOutput f.payload
    { s with
      dstH := some (f.dst.extractLsb' 32 16)
      dstL := some (f.dst.extractLsb' 0 32)
      srcH := some (f.src.extractLsb' 32 16)
      srcL := some (f.src.extractLsb' 0 32)
      etype := some f.etype
      vcount := BitVec.ofNat 16 f.vlan.length
      vlan := Memory.ofList 0 f.vlan }

/-- `match ... ok v -> complete_ok(writes of v) | err e -> complete_err(e)`, the end of every command's pseudocode. -/
def complete {α : Type} (writes : α → State → State) (r : Result α) (s : State) : State :=
  match r with
  | .ok v => completeOk (writes v s)
  | .err e => completeErr (.core e) s

/-! The reset input and the turns. -/

/-- R230, R231: the reset input puts every piece of architectural state in its reset value; a pending command is abandoned.
The parameters and the host's side are not the block's (log entry 13). -/
def resetInput (s : State) : State :=
  { State.resetWith s.params with
    issues := s.issues, program := s.program, reads := s.reads, turns := s.turns }

/-- Whose move comes next: what `turns` says, and when it is used up the block's if a command is pending, else the host's
(R244: an issued command completes after a finite time; log entry 3). -/
def nextAgent (s : State) : Agent :=
  match s.turns with
  | a :: _ => a
  | [] => if s.pend.isSome then .block else .host

/-- One move of `turns` is used up. -/
def takeTurn (s : State) : State := { s with turns := s.turns.tail }

end Sys2Proof.Machine
end

