-- ==== Sys2Proof/Machine/Operands.lean ====
section
/-! DEFINITION. Byte order (20_memory.md R54, R55), the VTAG register format (10_state.md R42, 30_encoding.md R90), and every
operand form of the commands: the TAG register, the input bytes, the frame registers (R35, R37 to R41). -/

namespace Sys2Proof.Machine

/-! Byte order: every multi-byte field is big-endian (R53). -/

/-- R54: `rd16be(b, i)`; every use has checked `i + 2 <= len(b)`. -/
def rd16be (b : Bytes) (i : Nat) : Half := b.getD i 0#8 ++ b.getD (i + 1) 0#8

/-- R54: `rd32be(b, i)`; every use has checked `i + 4 <= len(b)`. -/
def rd32be (b : Bytes) (i : Nat) : Word :=
  b.getD i 0#8 ++ b.getD (i + 1) 0#8 ++ b.getD (i + 2) 0#8 ++ b.getD (i + 3) 0#8

/-- R55: `be16(v)`, most significant byte first. -/
def be16 (v : Half) : Bytes := [v.extractLsb' 8 8, v.extractLsb' 0 8]

/-- R55: `be32(v)`, most significant byte first. -/
def be32 (v : Word) : Bytes :=
  [v.extractLsb' 24 8, v.extractLsb' 16 8, v.extractLsb' 8 8, v.extractLsb' 0 8]

/-- The six bytes of a hardware address, byte 0 first (R22, R37). -/
def macBytes (a : MacAddr) : Bytes :=
  [a.extractLsb' 40 8, a.extractLsb' 32 8, a.extractLsb' 24 8, a.extractLsb' 16 8, a.extractLsb' 8 8, a.extractLsb' 0 8]

/-- `zeros(n)`: n bytes of 0x00 (00_scope.md section 5). -/
def zeros (n : Nat) : Bytes := List.replicate n 0#8

/-! The VTAG register format. -/

/-- R42: `vtagToTag(w)`. The reserved bits of `w` do not reach the tag (R43). -/
def vtagToTag (w : Word) : VlanTag :=
  { pri := w.extractLsb' 24 3, dei := w.extractLsb' 16 1, vid := w.extractLsb' 0 12 }

/-- R42: `tagToVtag(t)`, the word a VTAG register reads as (R90). -/
def tagToVtag (t : VlanTag) : Word :=
  (t.pri.zeroExtend 32 <<< 24) ||| (t.dei.zeroExtend 32 <<< 16) ||| t.vid.zeroExtend 32

/-! The operand forms. Each is none when a location it reads holds no value (R25). -/

/-- R35: the input byte sequence `[IBUF[0], ..., IBUF[ILEN-1]]`. Bytes at index ILEN and above are not read. -/
def inputBytes (s : State) : Option Bytes := Memory.readRun s.ibuf 0 s.ilen.toNat

/-- R41: the VLAN chain `VLAN[0]` to `VLAN[VCOUNT-1]`. Entries from VCOUNT on are not read. -/
def chainOperand (s : State) : Option (List VlanTag) := Memory.readRun s.vlan 0 s.vcount.toNat

/-- R37: `dst = DST_H[15:0] ++ DST_L[31:0]`. -/
def dstOperand (s : State) : Option MacAddr :=
  match s.dstH, s.dstL with
  | some h, some l => some (h ++ l)
  | _, _ => none

/-- R37: `src = SRC_H[15:0] ++ SRC_L[31:0]`. -/
def srcOperand (s : State) : Option MacAddr :=
  match s.srcH, s.srcL with
  | some h, some l => some (h ++ l)
  | _, _ => none

/-- R125: the Frame an encode command builds from the frame registers and the payload in IBUF. -/
def frameOperand (s : State) : Option Frame :=
  match dstOperand s, srcOperand s, chainOperand s, s.etype, inputBytes s with
  | some dst, some src, some vlan, some etype, some payload => some { dst, src, vlan, etype, payload }
  | _, _, _, _, _ => none

/-- R125: the length of an encode command's output, `14 + 4*VCOUNT + max(ILEN, 46)`, to which R175 adds the 4 bytes of the
FCS trailer. -/
def encodedLength (trailer : Nat) (s : State) : Nat :=
  14 + 4 * s.vcount.toNat + max s.ilen.toNat 46 + trailer

end Sys2Proof.Machine
end

