-- ==== Sys2Proof/Machine/TagCodec.lean ====
section
/-! DEFINITION. The VLAN tag codec's core functions (40_vlan_tag.md R100 to R102). -/

namespace Sys2Proof.Machine

/-- R84: the reserved VLAN ID 0xFFF. -/
def reservedVid : BitVec 12 := 0xFFF#12

/-- R100: `tciPack(t) = t.pri ++ t.dei ++ t.vid`. -/
def tciPack (t : VlanTag) : Half := t.pri ++ t.dei ++ t.vid

/-- R100: `tciUnpack(w)`. -/
def tciUnpack (w : Half) : VlanTag :=
  { pri := w.extractLsb' 13 3, dei := w.extractLsb' 12 1, vid := w.extractLsb' 0 12 }

/-- R101: `vlanEncode(t)`. -/
def vlanEncode (t : VlanTag) : Result Bytes :=
  if t.vid = reservedVid then .err .invalidVlanId else .ok (be16 (tciPack t))

/-- R102: `vlanDecode(b)`. The length is checked before the ID. -/
def vlanDecode (b : Bytes) : Result VlanTag :=
  if b.length ≠ 2 then .err .truncatedInput
  else if (tciUnpack (rd16be b 0)).vid = reservedVid then .err .invalidVlanId
  else .ok (tciUnpack (rd16be b 0))

end Sys2Proof.Machine
end

