-- ==== Sys2Proof/Machine/FrameEncoder.lean ====
section
/-! DEFINITION. The frame encoder's core function (41_frame_encode.md R120). -/

namespace Sys2Proof.Machine

/-- R83: the VLAN marker EtherType. -/
def vlanMarker : Half := 0x8100#16

/-- R82: the minimum payload in bytes. -/
def minPayload : Nat := 46

/-- R120 step 4: marker and body of each tag in chain order; the first error ends the encoding with that error (R123). -/
def encodeChain : List VlanTag → Result Bytes
  | [] => .ok []
  | t :: ts =>
    match vlanEncode t with
    | .err e => .err e
    | .ok body =>
      match encodeChain ts with
      | .err e => .err e
      | .ok rest => .ok (be16 vlanMarker ++ body ++ rest)

/-- R120: `pad`, the zero bytes appended to a payload shorter than 46 bytes. -/
def padding (payload : Bytes) : Bytes := zeros (max payload.length minPayload - payload.length)

/-- R120: `frameEncode(f)`. -/
def frameEncode (f : Frame) : Result Bytes :=
  match encodeChain f.vlan with
  | .err e => .err e
  | .ok chain =>
    .ok (macBytes f.dst ++ macBytes f.src ++ chain ++ be16 f.etype ++ f.payload ++ padding f.payload)

end Sys2Proof.Machine
end

