-- ==== Sys2Proof/Machine/FrameDecoder.lean ====
section
/-! DEFINITION. The frame decoder's core function (42_frame_decode.md R140 to R148), twice: over the bytes that are left after
the cursor (the model's), and with the cursor and index reads of R140 as written. -/

namespace Sys2Proof.Machine

/-- R146: the stripped-tag heuristic on the number of decoded tags and the number of bytes after the terminal EtherType. -/
def payloadAccepted (nTags rem : Nat) : Bool :=
  let shortfall : Int := (minPayload : Int) - rem
  let counted : Int := if min nTags 1 = 0 ∧ shortfall = 4 then 1 else ((min nTags 1 : Nat) : Int)
  !decide ((rem : Int) < (minPayload : Int) - 4 * counted)

/-- R143 to R145: the loop. `cand` is the candidate, `rest` the bytes from the cursor on; the result is the tag list, the
terminal EtherType and the bytes after it. The 4 bytes are there before the body is decoded (R144). -/
def readChain (cand : Half) (rest : Bytes) : Result (List VlanTag × Half × Bytes) :=
  if cand = vlanMarker then
    match rest with
    | b0 :: b1 :: e0 :: e1 :: rest' =>
      match vlanDecode [b0, b1] with
      | .err e => .err e
      | .ok t =>
        match readChain (e0 ++ e1) rest' with
        | .err e => .err e
        | .ok (ts, etype, payload) => .ok (t :: ts, etype, payload)
    | _ => .err .truncatedInput
  else .ok ([], cand, rest)

/-- R140: `frameDecode(b)`. Fewer than 14 bytes raise TruncatedInput before anything else is read (R141). -/
def frameDecode (b : Bytes) : Result Frame :=
  match b with
  | d0 :: d1 :: d2 :: d3 :: d4 :: d5 :: s0 :: s1 :: s2 :: s3 :: s4 :: s5 :: e0 :: e1 :: rest =>
    match readChain (e0 ++ e1) rest with
    | .err e => .err e
    | .ok (tags, etype, payload) =>
      if payloadAccepted tags.length payload.length then
        .ok { dst := d0 ++ d1 ++ d2 ++ d3 ++ d4 ++ d5, src := s0 ++ s1 ++ s2 ++ s3 ++ s4 ++ s5,
              vlan := tags, etype := etype, payload := payload }
      else .err .truncatedInput
  | _ => .err .truncatedInput

/-! R140 as written, with the cursor: the reference the model's decoder is compared with. -/

/-- A hardware address from six bytes of `b` from index `i` on (R142). -/
def macAt (b : Bytes) (i : Nat) : MacAddr :=
  b.getD i 0#8 ++ b.getD (i + 1) 0#8 ++ b.getD (i + 2) 0#8 ++ b.getD (i + 3) 0#8 ++ b.getD (i + 4) 0#8
    ++ b.getD (i + 5) 0#8

/-- Steps 6 and 7 of R140, at the cursor `cur` after the loop. -/
def finishByCursor (b : Bytes) (cur : Nat) (cand : Half) (tags : List VlanTag) : Result Frame :=
  if payloadAccepted tags.length (b.length - cur) then
    .ok { dst := macAt b 0, src := macAt b 6, vlan := tags, etype := cand, payload := b.drop cur }
  else .err .truncatedInput

/-- Steps 4 and 5 of R140. `fuel` bounds the steps; R145 gives the bound `floor((len(b) - 14) / 4)`. -/
def loopByCursor (b : Bytes) : Nat → Nat → Half → List VlanTag → Result Frame
  | 0, cur, cand, tags =>
    if cand = vlanMarker then .err .truncatedInput else finishByCursor b cur cand tags
  | fuel + 1, cur, cand, tags =>
    if cand = vlanMarker then
      if b.length - cur < 4 then .err .truncatedInput
      else
        match vlanDecode ((b.drop cur).take 2) with
        | .err e => .err e
        | .ok t => loopByCursor b fuel (cur + 4) (rd16be b (cur + 4 - 2)) (tags ++ [t])
    else finishByCursor b cur cand tags

/-- R140 as written. -/
def frameDecodeByCursor (b : Bytes) : Result Frame :=
  if b.length < 14 then .err .truncatedInput
  else loopByCursor b ((b.length - 14) / 4) 14 (rd16be b (14 - 2)) []

end Sys2Proof.Machine
end

