-- ==== Sys2Proof/Machine/Checksum.lean ====
section
/-! DEFINITION. The FCS wrapper's core functions (43_fcs.md R170, R172, R173). -/

namespace Sys2Proof.Machine

/-- R170: one of the 8 shifts of a byte. -/
def crcShift (c : Word) : Word :=
  if c.getLsbD 0 then (c >>> 1) ^^^ 0xEDB88320#32 else c >>> 1

/-- R170: `repeat 8 times`. -/
def crcShifts : Nat → Word → Word
  | 0, c => c
  | n + 1, c => crcShifts n (crcShift c)

/-- R170: the CRC register after one more byte. -/
def crcByte (c : Word) (b : Byte) : Word := crcShifts 8 (c ^^^ b.zeroExtend 32)

/-- R170: `crc32(b)`. The parameters are the spec's supply from general knowledge (G1; log entry 16). -/
def crc32 (b : Bytes) : Word := b.foldl crcByte 0xFFFFFFFF#32 ^^^ 0xFFFFFFFF#32

/-- R172: `frameEncodeFcs(f)`. The trailer is big-endian, as the source has it (R86, G4). -/
def frameEncodeFcs (f : Frame) : Result Bytes :=
  match frameEncode f with
  | .err e => .err e
  | .ok base => .ok (base ++ be32 (crc32 base))

/-- R173: `frameDecodeFcs(b)`. "On a mismatch the body is not decoded." -/
def frameDecodeFcs (b : Bytes) : Result Frame :=
  if b.length < 4 then .err .truncatedInput
  else if crc32 (b.take (b.length - 4)) ≠ rd32be (b.drop (b.length - 4)) 0 then .err .checksumMismatch
  else frameDecode (b.take (b.length - 4))

end Sys2Proof.Machine
end

