-- ==== Sys2Proof/Machine/FrameCommands.lean ====
section
/-! DEFINITION. The frame commands: FRM_ENC (R125), FRM_DEC (R149), FRM_ENC_FCS (R175) and FRM_DEC_FCS (R176). -/

namespace Sys2Proof.Machine

/-- The common course of FRM_ENC and FRM_ENC_FCS (R125, R175): `Oversize` before anything else, then the operands, then the
core function; "fault UnwrittenRead if any operand read here has no value" (R125, R25, R212). -/
def encodeCommand (trailer : Nat) (core : Frame → Result Bytes) (s : State) : Host.Outcome State Fault Refusal :=
  if encodedLength trailer s > s.params.bufBytes then .refused .oversize
  else
    match frameOperand s with
    | none => .fault .unwrittenRead
    | some f => .next (complete writeOutput (core f) s)

/-- The common course of FRM_DEC and FRM_DEC_FCS (R149, R176): "fault UnwrittenRead if any byte has no value" (R25, R212). -/
def decodeCommand (core : Bytes → Result Frame) (s : State) : Host.Outcome State Fault Refusal :=
  match inputBytes s with
  | none => .fault .unwrittenRead
  | some b => .next (complete writeFrame (core b) s)

/-- FRM_ENC (R125). -/
def execFrmEnc (s : State) : Host.Outcome State Fault Refusal := encodeCommand 0 frameEncode s

/-- FRM_DEC (R149). -/
def execFrmDec (s : State) : Host.Outcome State Fault Refusal := decodeCommand frameDecode s

/-- FRM_ENC_FCS (R175). -/
def execFrmEncFcs (s : State) : Host.Outcome State Fault Refusal := encodeCommand 4 frameEncodeFcs s

/-- FRM_DEC_FCS (R176). -/
def execFrmDecFcs (s : State) : Host.Outcome State Fault Refusal := decodeCommand frameDecodeFcs s

end Sys2Proof.Machine
end

