-- ==== Sys2Proof/Machine/Tag.lean ====
section
/-! DEFINITION. The commands of the VLAN tag codec: VLAN_ENC (R103) and VLAN_DEC (R104). -/

namespace Sys2Proof.Machine

/-- VLAN_ENC (R103): "fault UnwrittenRead if TAG has no value" (R25, R212). -/
def execVlanEnc (s : State) : Host.Outcome State Fault Refusal :=
  match s.tag with
  | none => .fault .unwrittenRead
  | some t => .next (complete writeOutput (vlanEncode t) s)

/-- VLAN_DEC (R104): "fault UnwrittenRead if any byte has no value" (R25, R35, R212). -/
def execVlanDec (s : State) : Host.Outcome State Fault Refusal :=
  match inputBytes s with
  | none => .fault .unwrittenRead
  | some b => .next (complete writeTag (vlanDecode b) s)

end Sys2Proof.Machine
end

