-- ==== Sys2Proof/Machine/Dispatch.lean ====
section
/-! DEFINITION. One arm per command (30_encoding.md R91), each one call of that command's meaning. -/

namespace Sys2Proof.Machine

def exec (i : Instr) (s : State) : Host.Outcome State Fault Refusal :=
  match i with
  | .vlanEnc => Sys2Proof.Machine.execVlanEnc s
  | .vlanDec => Sys2Proof.Machine.execVlanDec s
  | .frmEnc => Sys2Proof.Machine.execFrmEnc s
  | .frmDec => Sys2Proof.Machine.execFrmDec s
  | .frmEncFcs => Sys2Proof.Machine.execFrmEncFcs s
  | .frmDecFcs => Sys2Proof.Machine.execFrmDecFcs s

end Sys2Proof.Machine
end

