-- ==== Sys2Proof/Machine/Block.lean ====
section
/-! DEFINITION. The block's one kind of step: completing the pending command (20_memory.md R59, R61). -/

namespace Sys2Proof.Machine

/-- The completion of the pending command: its meaning, or IllegalCommand for a reserved or illegal word, which reads no
operand (R201). With nothing pending the block does nothing (R66: "The block never starts work on its own"). -/
def blockMove (s : State) : Host.Outcome State Fault Refusal :=
  match s.pend with
  | none => .next s
  | some w =>
    match decode w with
    | .command i => exec i s
    | .illegal _ => .next (completeErr .illegalCommand s)

end Sys2Proof.Machine
end

