-- ==== Sys2Proof/Machine/Bus.lean ====
section
/-! DEFINITION. The bus (20_memory.md R50 to R52): windows, legal accesses, the location at an address, and the host's reads and
writes with the hazards of 70_reset_and_hazards.md R240 and R241. -/

namespace Sys2Proof.Machine

/-- The four windows of R50, and the addresses between the first two. -/
inductive Window where
  | registers
  | gap
  | tagArray
  | inputBuffer
  | outputBuffer
  deriving DecidableEq, Repr

/-- A location of the block, or an address that none occupies (R30, R52). -/
inductive Location where
  | cmd | status | ilen | olen | dstH | dstL | srcH | srcL | etype | vcount | tag
  | vlan (i : Nat)
  | ibuf (i : Nat)
  | obuf (i : Nat)
  | unmapped
  deriving DecidableEq, Repr

/-- The window of an address (R50, R52). -/
def windowOf (a : BusAddr) : Window :=
  if a.toNat < 0x100 then .registers
  else if a.toNat < 0x10000 then .gap
  else if a.toNat < 0x20000 then .tagArray
  else if a.toNat < 0x30000 then .inputBuffer
  else .outputBuffer

/-- R51: 32-bit aligned accesses to registers and tag array, 8-bit accesses to the buffers; "Any other access is refused".
Between the windows R52 gives an access its effect, and the legal one is that of the register window (log entry 9). -/
def legalAccess (w : Width) (a : BusAddr) : Bool :=
  match windowOf a with
  | .registers => w == .w32 && a.toNat % 4 == 0
  | .gap => w == .w32 && a.toNat % 4 == 0
  | .tagArray => w == .w32 && a.toNat % 4 == 0
  | .inputBuffer => w == .w8
  | .outputBuffer => w == .w8

/-- The register map of R30 in the register window; the other offsets are unmapped (R52). -/
def registerAt (offset : Nat) : Location :=
  match offset with
  | 0x00 => .cmd
  | 0x04 => .status
  | 0x08 => .ilen
  | 0x0C => .olen
  | 0x10 => .dstH
  | 0x14 => .dstL
  | 0x18 => .srcH
  | 0x1C => .srcL
  | 0x20 => .etype
  | 0x24 => .vcount
  | 0x28 => .tag
  | _ => .unmapped

/-- The location at an address that a legal access names (R30, R50, R52). -/
def locate (p : Params) (a : BusAddr) : Location :=
  match windowOf a with
  | .registers => registerAt a.toNat
  | .gap => .unmapped
  | .tagArray => if (a.toNat - 0x10000) / 4 < p.maxTags then .vlan ((a.toNat - 0x10000) / 4) else .unmapped
  | .inputBuffer => if a.toNat - 0x20000 < p.bufBytes then .ibuf (a.toNat - 0x20000) else .unmapped
  | .outputBuffer => if a.toNat - 0x30000 < p.bufBytes then .obuf (a.toNat - 0x30000) else .unmapped

/-! Reads. -/

/-- What a location reads as, or none if it holds no value (R25). Reserved bits read 0 (R43); CMD and unmapped addresses read
0 (R31, R52). -/
def readLocation (s : State) : Location → Option Word
  | .cmd => some 0#32
  | .status => some s.status.word
  | .ilen => some (s.ilen.zeroExtend 32)
  | .olen => some (s.olen.zeroExtend 32)
  | .dstH => s.dstH.map (·.zeroExtend 32)
  | .dstL => s.dstL
  | .srcH => s.srcH.map (·.zeroExtend 32)
  | .srcL => s.srcL
  | .etype => s.etype.map (·.zeroExtend 32)
  | .vcount => some (s.vcount.zeroExtend 32)
  | .tag => s.tag.map tagToVtag
  | .vlan i => (Memory.read s.vlan i).map tagToVtag
  | .ibuf i => (Memory.read s.ibuf i).map (·.zeroExtend 32)
  | .obuf i => (Memory.read s.obuf i).map (·.zeroExtend 32)
  | .unmapped => some 0#32

/-- The bits of a location that are not reserved (R30 to R43, R90); a byte has 8. -/
def definedBits : Location → Word
  | .cmd => 0x00000000#32
  | .status => 0x0000001F#32
  | .ilen => 0x0001FFFF#32
  | .olen => 0x0001FFFF#32
  | .dstH => 0x0000FFFF#32
  | .dstL => 0xFFFFFFFF#32
  | .srcH => 0x0000FFFF#32
  | .srcL => 0xFFFFFFFF#32
  | .etype => 0x0000FFFF#32
  | .vcount => 0x0000FFFF#32
  | .tag => 0x07010FFF#32
  | .vlan _ => 0x07010FFF#32
  | .ibuf _ => 0x000000FF#32
  | .obuf _ => 0x000000FF#32
  | .unmapped => 0x00000000#32

/-- R241: the locations a command may write. -/
def resultLocation (i : Instr) (l : Location) : Bool :=
  match i, l with
  | .vlanEnc, .olen => true
  | .vlanEnc, .obuf _ => true
  | .vlanDec, .tag => true
  | .frmEnc, .olen => true
  | .frmEnc, .obuf _ => true
  | .frmEncFcs, .olen => true
  | .frmEncFcs, .obuf _ => true
  | .frmDec, l => decodeResult l
  | .frmDecFcs, l => decodeResult l
  | _, _ => false
where
  /-- R241, the row of FRM_DEC and FRM_DEC_FCS. -/
  decodeResult : Location → Bool
    | .dstH | .dstL | .srcH | .srcL | .etype | .vcount | .vlan _ | .obuf _ | .olen => true
    | _ => false

/-- R241: the pending command may write this location; "an illegal command: none". -/
def pendingMayWrite (s : State) (l : Location) : Bool :=
  match s.pend with
  | none => false
  | some w =>
    match decode w with
    | .command i => resultLocation i l
    | .illegal _ => false

/-- R241: the free draw for a location, the same for every read of one address while one command is pending (R57). Reserved
bits read 0 (R43; log entry 6). -/
def freeRead (s : State) (a : BusAddr) (l : Location) : Word :=
  Config.freeDraw s.issues a &&& definedBits l

/-- The host has read a value. -/
def recordRead (a : BusAddr) (v : Word) (s : State) : State :=
  { s with reads := s.reads ++ [{ addr := a, value := v }] }

/-- A host read (R51, R52, R241, R25). While busy a location the pending command may write gives a free draw, whatever it
holds (R241); any other location gives its value, and the fault UnwrittenRead if it holds none (R25, R212, D16; log entry 7). -/
def busRead (w : Width) (a : BusAddr) (s : State) : Host.Outcome State Fault Refusal :=
  if !legalAccess w a then .refused .badAccess
  else if s.status.busy && pendingMayWrite s (locate s.params a) then
    .next (recordRead a (freeRead s a (locate s.params a)) s)
  else
    match readLocation s (locate s.params a) with
    | some v => .next (recordRead a v s)
    | none => .fault .unwrittenRead

/-! Writes. -/

/-- A host write of a location while the block is idle: the register keeps its defined fields (R43); CMD issues (R31); ILEN
and VCOUNT refuse a value above their bound (R33, R39; log entry 10); STATUS, OLEN, OBUF and unmapped addresses ignore it
(R52). -/
def writeLocation (l : Location) (d : Word) (s : State) : Host.Outcome State Fault Refusal :=
  match l with
  | .cmd => .next (issue d s)
  | .status => .next s
  | .ilen =>
    if (d.extractLsb' 0 17).toNat ≤ s.params.bufBytes then .next { s with ilen := d.extractLsb' 0 17 }
    else .refused .illegalValue
  | .olen => .next s
  | .dstH => .next { s with dstH := some (d.extractLsb' 0 16) }
  | .dstL => .next { s with dstL := some d }
  | .srcH => .next { s with srcH := some (d.extractLsb' 0 16) }
  | .srcL => .next { s with srcL := some d }
  | .etype => .next { s with etype := some (d.extractLsb' 0 16) }
  | .vcount =>
    if (d.extractLsb' 0 16).toNat ≤ s.params.maxTags then .next { s with vcount := d.extractLsb' 0 16 }
    else .refused .illegalValue
  | .tag => .next { s with tag := some (vtagToTag d) }
  | .vlan i => .next { s with vlan := Memory.write s.vlan i (vtagToTag d) }
  | .ibuf i => .next { s with ibuf := Memory.write s.ibuf i (d.extractLsb' 0 8) }
  | .obuf _ => .next s
  | .unmapped => .next s

/-- A host write (R51, R240). Any write while BUSY = 1 is the fault BusyWrite (log entry 8). -/
def busWrite (w : Width) (a : BusAddr) (d : Word) (s : State) : Host.Outcome State Fault Refusal :=
  if !legalAccess w a then .refused .badAccess
  else if s.status.busy then .fault .busyWrite
  else writeLocation (locate s.params a) d s

/-- One bus access of the host (R50, R61). -/
def busAccess (acc : BusAccess) (s : State) : Host.Outcome State Fault Refusal :=
  match acc with
  | .write w a d => busWrite w a d s
  | .read w a => busRead w a s

end Sys2Proof.Machine
end

