-- ==== Sys2Proof/Machine/HostProgram.lean ====
section
/-! DEFINITION. The host notation (30_encoding.md R92, R93): the base statements as bus accesses, the pseudo-instructions as
their expansions, and the host's move. -/

namespace Sys2Proof.Machine

/-- The register names a statement may use: those of R30, or VLAN[i] (R92). -/
inductive RegName where
  | cmd | status | ilen | olen | dstH | dstL | srcH | srcL | etype | vcount | tag
  | vlan (i : Nat)
  deriving DecidableEq, Repr

/-- The offset of a register (R30); VLAN[i] is at 0x10000 + 4*i (R41). DESIGN CHOICE (log entry 21): an index that puts the
address past 0x3FFFF has no address in the spec (R50), and the model wraps it modulo 2^18. -/
def RegName.offset : RegName → BusAddr
  | .cmd => 0x00000#18
  | .status => 0x00004#18
  | .ilen => 0x00008#18
  | .olen => 0x0000C#18
  | .dstH => 0x00010#18
  | .dstL => 0x00014#18
  | .srcH => 0x00018#18
  | .srcL => 0x0001C#18
  | .etype => 0x00020#18
  | .vcount => 0x00024#18
  | .tag => 0x00028#18
  | .vlan i => BitVec.ofNat 18 (0x10000 + 4 * i)

/-- `WR <reg>, <imm32>` (R92). -/
def stmtWr (r : RegName) (v : Word) : HostStmt := .access (.write .w32 r.offset v)

/-- `RD <reg>` (R92). -/
def stmtRd (r : RegName) : HostStmt := .access (.read .w32 r.offset)

/-- `WB IBUF[<i>], <imm8>` (R92). DESIGN CHOICE (log entry 21): an address past 0x3FFFF wraps modulo 2^18. -/
def stmtWb (i : Nat) (v : Byte) : HostStmt :=
  .access (.write .w8 (BitVec.ofNat 18 (0x20000 + i)) (v.zeroExtend 32))

/-- `RB IBUF[<i>]` (R92). DESIGN CHOICE (log entry 21): an address past 0x3FFFF wraps modulo 2^18. -/
def stmtRbIn (i : Nat) : HostStmt := .access (.read .w8 (BitVec.ofNat 18 (0x20000 + i)))

/-- `RB OBUF[<i>]` (R92). DESIGN CHOICE (log entry 21): an address past 0x3FFFF wraps modulo 2^18. -/
def stmtRbOut (i : Nat) : HostStmt := .access (.read .w8 (BitVec.ofNat 18 (0x30000 + i)))

/-- `ISSUE <mnemonic>` (R93). -/
def stmtIssue (i : Instr) : List HostStmt := [stmtWr .cmd (encode i)]

/-- `RUN <mnemonic>`: ISSUE, then WAIT (R93). -/
def stmtRun (i : Instr) : List HostStmt := stmtIssue i ++ [.wait]

/-- `SETMAC DST, b0:b1:b2:b3:b4:b5` (R93), on the 48-bit value of the address. -/
def stmtSetDst (m : MacAddr) : List HostStmt :=
  [stmtWr .dstH ((m.extractLsb' 32 16).zeroExtend 32), stmtWr .dstL (m.extractLsb' 0 32)]

/-- `SETMAC SRC, b0:b1:b2:b3:b4:b5` (R93). -/
def stmtSetSrc (m : MacAddr) : List HostStmt :=
  [stmtWr .srcH ((m.extractLsb' 32 16).zeroExtend 32), stmtWr .srcL (m.extractLsb' 0 32)]

/-- `SETTAG <reg>, pri, dei, vid` (R93), where `<reg>` is TAG or VLAN[i]. -/
def stmtSetTag (r : RegName) (t : VlanTag) : List HostStmt := [stmtWr r (tagToVtag t)]

/-- The IBUF writes of LOAD, from index `i` on (R93). -/
def stmtLoadBytes : Nat → Bytes → List HostStmt
  | _, [] => []
  | i, b :: bs => stmtWb i b :: stmtLoadBytes (i + 1) bs

/-- `LOAD x0 x1 ... x(n-1)` (R93): the bytes, then ILEN. -/
def stmtLoad (bs : Bytes) : List HostStmt :=
  stmtLoadBytes 0 bs ++ [stmtWr .ilen (BitVec.ofNat 32 bs.length)]

/-- One move of the host: the next statement of its program, in program order (R61). WAIT polls STATUS once a move and is
done with when the value read has BUSY = 0 (R93). With no statement left the host does nothing (R246). -/
def hostMove (s : State) : Host.Outcome State Fault Refusal :=
  match s.program with
  | [] => .next s
  | .access acc :: rest => busAccess acc { s with program := rest }
  | .reset :: rest => .next (resetInput { s with program := rest })
  | .wait :: rest =>
    busRead .w32 RegName.status.offset (if s.status.busy then s else { s with program := rest })

end Sys2Proof.Machine
end

