-- ==== Sys2Proof/Machine/Step.lean ====
section
/-! DEFINITION. One step of the machine: one move of the agent whose turn it is (20_memory.md R61; log entry 3). -/

namespace Sys2Proof.Machine

/-- One step. -/
def step (s : State) : Host.Outcome State Fault Refusal :=
  match nextAgent s with
  | .block => blockMove (takeTurn s)
  | .host => hostMove (takeTurn s)

/-- The state in which the command word made of a table row's bits has just been issued and the block moves next, so that the
next step completes exactly that command (log entry 4). -/
def State.withFetchWord (s : State) (nbits w : Nat) : State :=
  { issue (BitVec.ofNat 32 (w % 2 ^ nbits)) s with turns := .block :: s.turns }

end Sys2Proof.Machine
end

