-- ==== Sys2Proof/Safety.lean ====
section
/-! DEFINITION. The terms claims are made in: what a state holds for a command to read (10_state.md R25, 70_reset_and_hazards.md
R233), the invariant of the machine, and what a safe run is (R212, R246). -/

namespace Sys2Proof.Safety

open Sys2Proof.Machine

/-- The input byte sequence of the next command is `b`, and each of its bytes holds a value (R35). -/
def HoldsInput (s : State) (b : Bytes) : Prop :=
  b.length = s.ilen.toNat ∧ ∀ k, k < b.length → Memory.read s.ibuf k = b[k]?

/-- Some input byte holds no value (R25, R35). -/
def LacksInput (s : State) : Prop := ∃ k, k < s.ilen.toNat ∧ Memory.read s.ibuf k = none

/-- The VLAN chain of the next command is `ts`, and each of its entries holds a value (R39, R41). -/
def HoldsChain (s : State) (ts : List VlanTag) : Prop :=
  ts.length = s.vcount.toNat ∧ ∀ j, j < ts.length → Memory.read s.vlan j = ts[j]?

/-- Every operand of an encode command holds a value, and together they are the frame `f` (R125, R233). -/
def HoldsFrame (s : State) (f : Frame) : Prop :=
  s.dstH = some (f.dst.extractLsb' 32 16) ∧ s.dstL = some (f.dst.extractLsb' 0 32) ∧
  s.srcH = some (f.src.extractLsb' 32 16) ∧ s.srcL = some (f.src.extractLsb' 0 32) ∧
  s.etype = some f.etype ∧ HoldsChain s f.vlan ∧ HoldsInput s f.payload

/-- Some operand of an encode command holds no value (R25, R125). -/
def LacksFrame (s : State) : Prop :=
  s.dstH = none ∨ s.dstL = none ∨ s.srcH = none ∨ s.srcL = none ∨ s.etype = none ∨
  (∃ j, j < s.vcount.toNat ∧ Memory.read s.vlan j = none) ∨ LacksInput s

/-- The invariant every step keeps. It rules out states no run reaches. -/
structure Inv (s : State) : Prop where
  /-- R3, R4. -/
  params : s.params.wf = true
  /-- R44: "STATUS.BUSY = 1 exactly when PEND is not none." -/
  busy_iff_pending : s.status.busy = s.pend.isSome
  /-- R32, legal values of STATUS. -/
  status_legal : s.status.legal = true
  /-- R33: "Legal values are 0 to BUF_BYTES." -/
  ilen_le : s.ilen.toNat ≤ s.params.bufBytes
  /-- R36: an output fits in OBUF. -/
  olen_le : s.olen.toNat ≤ s.params.bufBytes
  /-- R39: "Legal values are 0 to MAX_TAGS." -/
  vcount_le : s.vcount.toNat ≤ s.params.maxTags
  /-- The canonical form of the stored arrays. -/
  ibuf_wf : Memory.wf s.ibuf
  obuf_wf : Memory.wf s.obuf
  vlan_wf : Memory.wf s.vlan
  /-- R35: IBUF is an array of BUF_BYTES bytes. -/
  ibuf_lt : ∀ c ∈ s.ibuf, c.1 < s.params.bufBytes
  /-- R41: VLAN[i] exists for i < MAX_TAGS. -/
  vlan_lt : ∀ c ∈ s.vlan, c.1 < s.params.maxTags
  /-- R34, R36: OBUF[i] holds a value exactly when i < OLEN. -/
  obuf_valued : ∀ k, (Memory.read s.obuf k).isSome = decide (k < s.olen.toNat)

/-- `n` steps of the machine, stopping at the first fault or refusal, which no later step clears (R212). -/
def runSteps : Nat → State → Host.Outcome State Fault Refusal
  | 0, s => .next s
  | n + 1, s =>
    match step s with
    | .next t => runSteps n t
    | .fault r => .fault r
    | .refused r => .refused r

/-- The first `n` steps from `s` meet no fault and no refusal (R212). -/
def SafeFor (n : Nat) (s : State) : Prop := ∃ t, runSteps n s = .next t

/-- R246: "A host program ends when its last statement has been performed and STATUS.BUSY = 0." DESIGN CHOICE (log entry 22):
of a program whose last statement is a CMD write not followed by WAIT the definition says nothing; this predicate counts it as
ended once the command has completed. -/
def ProgramEnded (s : State) : Prop := s.program = [] ∧ s.status.busy = false

/-- The host's write of a register by its address, as the bus carries it (R51): 32 bits wide. -/
def hostWrite (a : BusAddr) (d : Word) (s : State) : Host.Outcome State Fault Refusal := busAccess (.write .w32 a d) s

/-- The host's read of a register by its address (R51). -/
def hostRead (a : BusAddr) (s : State) : Host.Outcome State Fault Refusal := busAccess (.read .w32 a) s

/-- The host's write of a buffer byte by its address (R51): 8 bits wide. -/
def hostWriteByte (a : BusAddr) (d : Byte) (s : State) : Host.Outcome State Fault Refusal :=
  busAccess (.write .w8 a (d.zeroExtend 32)) s

/-- The host's read of a buffer byte by its address (R51). -/
def hostReadByte (a : BusAddr) (s : State) : Host.Outcome State Fault Refusal := busAccess (.read .w8 a) s

/-- R241: the locations the pending word `w` may not write, which keep their value while it is pending. The others are the
result locations it lists. -/
def FixedWhilePending (w : Word) (l : Location) : Prop :=
  (∃ why, decode w = .illegal why) ∨
  (decode w = .command .vlanDec ∧ l ≠ .tag) ∨
  ((decode w = .command .vlanEnc ∨ decode w = .command .frmEnc ∨ decode w = .command .frmEncFcs) ∧
    l ≠ .olen ∧ ∀ k, l ≠ .obuf k) ∨
  ((decode w = .command .frmDec ∨ decode w = .command .frmDecFcs) ∧
    (l = .cmd ∨ l = .status ∨ l = .ilen ∨ l = .tag ∨ l = .unmapped ∨ ∃ k, l = .ibuf k))

/-- The bytes of a chain of tags on the wire: marker and body of each tag, outermost first (R80). -/
def chainBytes (ts : List VlanTag) : Bytes := ts.flatMap (fun t => [0x81#8, 0x00#8] ++ be16 (t.pri ++ t.dei ++ t.vid))

/-- The bytes of a frame on the wire, without an FCS (R80): addresses, chain, terminal EtherType, payload as it is. -/
def wireBytes (f : Frame) : Bytes :=
  macBytes f.dst ++ macBytes f.src ++ chainBytes f.vlan ++ be16 f.etype ++ f.payload

/-- No tag of the chain carries the reserved ID 0xFFF (R84). -/
def IdsValid (ts : List VlanTag) : Prop := ∀ t ∈ ts, t.vid ≠ 0xFFF#12

/-- The frame registers, VLAN[], OBUF and OLEN of `t` hold the frame `f`, each read back through the model's reads (R149). -/
def FrameInRegisters (t : State) (f : Frame) : Prop :=
  t.dstH = some (f.dst.extractLsb' 32 16) ∧ t.dstL = some (f.dst.extractLsb' 0 32) ∧
  t.srcH = some (f.src.extractLsb' 32 16) ∧ t.srcL = some (f.src.extractLsb' 0 32) ∧
  t.etype = some f.etype ∧ t.vcount.toNat = f.vlan.length ∧ (∀ j, Memory.read t.vlan j = f.vlan[j]?) ∧
  (∀ k, Memory.read t.obuf k = f.payload[k]?) ∧ t.olen.toNat = f.payload.length

/-- OBUF and OLEN of `t` hold the bytes `r` and nothing else (R36). -/
def OutputIs (t : State) (r : Bytes) : Prop :=
  (∀ k, Memory.read t.obuf k = r[k]?) ∧ t.olen.toNat = r.length

/-- `t` is `s` except OBUF, OLEN, and STATUS and PEND after a success. -/
def OnlyOutputChanged (s t : State) : Prop :=
  t = { s with obuf := t.obuf, olen := t.olen, status := { busy := false, ok := true, err := 0#3 }, pend := none }

/-- `t` is `s` except the frame registers, VLAN[], OBUF, OLEN, and STATUS and PEND after a success. -/
def OnlyFrameChanged (s t : State) : Prop :=
  t = { s with dstH := t.dstH, dstL := t.dstL, srcH := t.srcH, srcL := t.srcL, etype := t.etype, vcount := t.vcount,
               vlan := t.vlan, obuf := t.obuf, olen := t.olen,
               status := { busy := false, ok := true, err := 0#3 }, pend := none }

/-- The state a command that fails with code `c` leaves: nothing but STATUS and PEND changes (R205). -/
def failedWith (c : BitVec 3) (s : State) : State :=
  { s with status := { busy := false, ok := false, err := c }, pend := none }

/-- Two ends of a command agree: both stop for the same reason, or both complete with the same STATUS and, on success, with
results related by `R`. -/
def SameEnd (R : State → State → Prop) : Host.Outcome State Fault Refusal → Host.Outcome State Fault Refusal → Prop
  | .next t₁, .next t₂ => t₁.status = t₂.status ∧ (t₁.status.ok = true → R t₁ t₂)
  | .fault a, .fault b => a = b
  | .refused a, .refused b => a = b
  | _, _ => False

/-- The two states hold the same input bytes below ILEN (R35). -/
def SameInput (s₁ s₂ : State) : Prop :=
  s₁.ilen = s₂.ilen ∧ ∀ k, k < s₁.ilen.toNat → Memory.read s₁.ibuf k = Memory.read s₂.ibuf k

/-- The two states hold the same frame operands, VLAN entries below VCOUNT and input bytes below ILEN (R125). -/
def SameFrameOperands (s₁ s₂ : State) : Prop :=
  s₁.dstH = s₂.dstH ∧ s₁.dstL = s₂.dstL ∧ s₁.srcH = s₂.srcH ∧ s₁.srcL = s₂.srcL ∧ s₁.etype = s₂.etype ∧
  s₁.vcount = s₂.vcount ∧ (∀ j, j < s₁.vcount.toNat → Memory.read s₁.vlan j = Memory.read s₂.vlan j) ∧ SameInput s₁ s₂

end Sys2Proof.Safety
end

