-- ==== Sys2Proof/Certificates/Slice0/Obligations.lean ====
section
/-! DEFINITION. The statements for the provers, in the order of spec/. A docstring names the rule or the section a statement
formalises; "log entry" means notes/assumptions. -/

open Sys2Proof Sys2Proof.Machine Sys2Proof.Safety

/-! ### Command words (30_encoding.md) -/

/-- 30_encoding.md section 5: words written out from the opcode table decode to the command they stand for, and reserved
words are refused by name. -/
def Obligations.CommandWordsDecode : Prop :=
  decode 0x00000001#32 = .command .vlanEnc ∧ decode 0x00000002#32 = .command .vlanDec ∧
  decode 0x00000003#32 = .command .frmEnc ∧ decode 0x00000004#32 = .command .frmDec ∧
  decode 0x00000005#32 = .command .frmEncFcs ∧ decode 0x00000006#32 = .command .frmDecFcs ∧
  decode 0x00000000#32 = .illegal .opZero ∧ decode 0x00000007#32 = .illegal .opSeven ∧
  decode 0x00000009#32 = .illegal .highBits ∧ decode 0x80000004#32 = .illegal .highBits

/-- R91: the match is against all 32 bits, and every other word is illegal. -/
def Obligations.DecoderIsTotalAndExact : Prop :=
  ∀ w : Word,
    (decode w = .command .vlanEnc ↔ w = 1#32) ∧ (decode w = .command .vlanDec ↔ w = 2#32) ∧
    (decode w = .command .frmEnc ↔ w = 3#32) ∧ (decode w = .command .frmDec ↔ w = 4#32) ∧
    (decode w = .command .frmEncFcs ↔ w = 5#32) ∧ (decode w = .command .frmDecFcs ↔ w = 6#32) ∧
    ((∃ why, decode w = .illegal why) ↔ w = 0#32 ∨ 7 ≤ w.toNat)

/-- 30_encoding.md section 5: no bit of a command's word is lost between encoder and decoder, as the word or as the table
numbers its bits. -/
def Obligations.CommandWordsRoundTrip : Prop :=
  ∀ i : Instr, decode (encode i) = .command i ∧ decodeTableWord 32 (encode i).toNat = some i

/-- R89, R201: which words are illegal, that an illegal word issues like any other, and that it completes with ERR = 4 and
changes nothing else, whatever locations hold no value. -/
def Obligations.IllegalWordsCompleteAsIllegalCommand : Prop :=
  ∀ w : Word,
    ((¬ ∃ i, decode w = .command i) ↔
      w.extractLsb' 0 3 = 0#3 ∨ w.extractLsb' 0 3 = 7#3 ∨ ∃ k, 3 ≤ k ∧ k < 32 ∧ w.getLsbD k = true) ∧
    ((¬ ∃ i, decode w = .command i) → ∀ s : State,
      (s.status.busy = false →
        hostWrite 0x00000#18 w s =
          .next { s with pend := some w, status := { busy := true, ok := false, err := 0#3 }, issues := s.issues + 1 }) ∧
      (s.pend = some w → blockMove s = .next (failedWith 4#3 s)))

/-! ### Byte order and register formats (20_memory.md, 10_state.md) -/

/-- 20_memory.md section 2 (the law the spec derives from R54 and R55), at any place of a byte sequence. -/
def Obligations.BigEndianReadsGiveBackWrites : Prop :=
  (∀ (pre post : Bytes) (v : Half), rd16be (pre ++ be16 v ++ post) pre.length = v) ∧
  (∀ (pre post : Bytes) (v : Word), rd32be (pre ++ be32 v ++ post) pre.length = v)

/-- R42: the VTAG conversions, and that they give back every value a VTAG register can hold. -/
def Obligations.VtagFormatRoundTrip : Prop :=
  (∀ w : Word, vtagToTag w = { pri := w.extractLsb' 24 3, dei := w.extractLsb' 16 1, vid := w.extractLsb' 0 12 }) ∧
  (∀ t : VlanTag, tagToVtag t = 0#5 ++ t.pri ++ 0#7 ++ t.dei ++ 0#4 ++ t.vid) ∧
  (∀ t : VlanTag, vtagToTag (tagToVtag t) = t) ∧
  (∀ w : Word, w &&& 0x07010FFF#32 = w → tagToVtag (vtagToTag w) = w)

/-! ### VLAN tag codec (40_vlan_tag.md) -/

/-- 40_vlan_tag.md section 1 (the spec's derived law of R100): packing and unpacking are inverse to each other. -/
def Obligations.TagBodyPackingIsABijection : Prop :=
  (∀ t : VlanTag, tciUnpack (tciPack t) = t) ∧ (∀ w : Half, tciPack (tciUnpack w) = w)

/-- R101: the two bytes of a tag body by their bits, or InvalidVlanId for the reserved ID. -/
def Obligations.VlanEncodePacksOrRejects : Prop :=
  ∀ t : VlanTag,
    (t.vid = 0xFFF#12 → vlanEncode t = .err .invalidVlanId) ∧
    (t.vid ≠ 0xFFF#12 →
      vlanEncode t = .ok [t.pri ++ t.dei ++ t.vid.extractLsb' 8 4, t.vid.extractLsb' 0 8])

/-- R102: the length check comes first, then the ID check, then the fields of the two bytes. -/
def Obligations.VlanDecodeChecksLengthThenId : Prop :=
  (∀ b : Bytes, b.length ≠ 2 → vlanDecode b = .err .truncatedInput) ∧
  (∀ b0 b1 : Byte,
    (b0.extractLsb' 0 4 ++ b1 = 0xFFF#12 → vlanDecode [b0, b1] = .err .invalidVlanId) ∧
    (b0.extractLsb' 0 4 ++ b1 ≠ 0xFFF#12 →
      vlanDecode [b0, b1] =
        .ok { pri := b0.extractLsb' 5 3, dei := b0.extractLsb' 4 1, vid := b0.extractLsb' 0 4 ++ b1 }))

/-- 40_vlan_tag.md section 2, the laws of the pair that the spec derives (R105). -/
def Obligations.VlanCodecPairLaws : Prop :=
  (∀ t : VlanTag, t.vid ≠ 0xFFF#12 → ∃ b, vlanEncode t = .ok b ∧ b.length = 2 ∧ vlanDecode b = .ok t) ∧
  (∀ b : Bytes, b.length = 2 → (rd16be b 0).extractLsb' 0 12 ≠ 0xFFF#12 →
    ∃ t, vlanDecode b = .ok t ∧ vlanEncode t = .ok b) ∧
  (∀ t : VlanTag, vlanEncode t = .err .invalidVlanId ↔ t.vid = 0xFFF#12) ∧
  (∀ b : Bytes, vlanDecode b = .err .invalidVlanId ↔
    ∃ b0 : Byte, b = [b0, 0xFF#8] ∧ b0.extractLsb' 0 4 = 0xF#4)

/-! ### Frame encoder (41_frame_encode.md) -/

/-- R121: the length of an encoded frame; the payload is never cut. -/
def Obligations.FrameEncodeLength : Prop :=
  ∀ (f : Frame) (out : Bytes), frameEncode f = .ok out →
    out.length = 12 + 4 * f.vlan.length + 2 + max f.payload.length 46 ∧
    (out.drop (14 + 4 * f.vlan.length)).take f.payload.length = f.payload

/-- 41_frame_encode.md section 1, the layout table the spec derives (R122), slice by slice. -/
def Obligations.FrameEncodeLayout : Prop :=
  ∀ (f : Frame) (out : Bytes), frameEncode f = .ok out →
    out.take 6 = macBytes f.dst ∧
    (out.drop 6).take 6 = macBytes f.src ∧
    (∀ (j : Nat) (h : j < f.vlan.length),
      (out.drop (12 + 4 * j)).take 2 = [0x81#8, 0x00#8] ∧
      (out.drop (14 + 4 * j)).take 2 = be16 (f.vlan[j].pri ++ f.vlan[j].dei ++ f.vlan[j].vid)) ∧
    (out.drop (12 + 4 * f.vlan.length)).take 2 = [f.etype.extractLsb' 8 8, f.etype.extractLsb' 0 8] ∧
    (out.drop (14 + 4 * f.vlan.length)).take f.payload.length = f.payload ∧
    out.drop (14 + 4 * f.vlan.length + f.payload.length) =
      List.replicate (max f.payload.length 46 - f.payload.length) 0x00#8

/-- 41_frame_encode.md section 1 (the sentence R123 derives): a reserved ID anywhere in the chain, and nothing else, ends the
encoding with InvalidVlanId and no bytes. -/
def Obligations.FrameEncodeRejectsReservedIds : Prop :=
  ∀ f : Frame, frameEncode f = .err .invalidVlanId ↔ ∃ t ∈ f.vlan, t.vid = 0xFFF#12

/-- R124: an invalid tag ID is the only way the encoder fails; an EtherType of 0x8100 is accepted, and its encoding, where it
decodes, reads back with the frame's tags followed by at least one more. -/
def Obligations.FrameEncodeAcceptsAllElse : Prop :=
  (∀ f : Frame, (∃ out, frameEncode f = .ok out) ↔ ∀ t ∈ f.vlan, t.vid ≠ 0xFFF#12) ∧
  (∀ (f g : Frame) (out : Bytes), f.etype = 0x8100#16 → frameEncode f = .ok out → frameDecode out = .ok g →
    ∃ t ts, g.vlan = f.vlan ++ t :: ts)

/-! ### Frame decoder (42_frame_decode.md) -/

/-- R140: the model's decoder is the rule's function with its cursor and index reads. -/
def Obligations.FrameDecodeIsTheCursorLoop : Prop :=
  ∀ b : Bytes, frameDecode b = frameDecodeByCursor b

/-- R141: fewer than 14 bytes raise TruncatedInput, and so do exactly 14. -/
def Obligations.ShortInputsAreTruncated : Prop :=
  ∀ b : Bytes, b.length ≤ 14 → frameDecode b = .err .truncatedInput

/-- R144: a chain step with fewer than 4 bytes left raises TruncatedInput, whatever those bytes are. -/
def Obligations.ChainStepNeedsFourBytes : Prop :=
  ∀ (dst src : MacAddr) (ts : List VlanTag) (tail : Bytes), IdsValid ts → tail.length < 4 →
    frameDecode (macBytes dst ++ macBytes src ++ chainBytes ts ++ [0x81#8, 0x00#8] ++ tail) = .err .truncatedInput

/-- 42_frame_decode.md section 1 (R145): with 4 bytes available a body with the reserved ID ends the decode with
InvalidVlanId, after any number of good tags and before the length heuristic. -/
def Obligations.ReservedIdInChainIsRejected : Prop :=
  ∀ (dst src : MacAddr) (ts : List VlanTag) (bad : VlanTag) (tail : Bytes), IdsValid ts → bad.vid = 0xFFF#12 →
    2 ≤ tail.length →
    frameDecode (macBytes dst ++ macBytes src ++ chainBytes ts ++ chainBytes [bad] ++ tail) = .err .invalidVlanId

/-- 42_frame_decode.md section 1 (the table the spec derives in R146, and R142 to R148): what the decoder gives for the wire
bytes of every frame whose terminal EtherType is not the marker. -/
def Obligations.FrameDecodeOfWireBytes : Prop :=
  ∀ f : Frame, IdsValid f.vlan → f.etype ≠ 0x8100#16 →
    ((f.vlan = [] ∧ (f.payload.length = 42 ∨ 46 ≤ f.payload.length) ∨ f.vlan ≠ [] ∧ 42 ≤ f.payload.length) →
      frameDecode (wireBytes f) = .ok f) ∧
    ((f.vlan = [] ∧ f.payload.length ≠ 42 ∧ f.payload.length < 46 ∨ f.vlan ≠ [] ∧ f.payload.length < 42) →
      frameDecode (wireBytes f) = .err .truncatedInput)

/-- 42_frame_decode.md section 2, first law the spec derives (R151): encoding then decoding gives the frame back, its payload
padded with zeros to 46 bytes. -/
def Obligations.EncodeThenDecodeGivesThePaddedFrame : Prop :=
  ∀ f : Frame, IdsValid f.vlan → f.etype ≠ 0x8100#16 →
    ∃ b, frameEncode f = .ok b ∧
      frameDecode b = .ok { f with payload := f.payload ++ List.replicate (46 - f.payload.length) 0x00#8 }

/-- 42_frame_decode.md section 2, third law the spec derives (R151): decoding then encoding gives the bytes back, padded. -/
def Obligations.DecodeThenEncodeGivesThePaddedBytes : Prop :=
  ∀ (b : Bytes) (f : Frame), frameDecode b = .ok f →
    f.etype ≠ 0x8100#16 ∧ IdsValid f.vlan ∧
      frameEncode f = .ok (b ++ List.replicate (46 - f.payload.length) 0x00#8)

/-- 42_frame_decode.md section 3 (R149, resting on the bound the spec derives in R4): the tag count and the payload of every
successful decode fit the registers and OBUF. -/
def Obligations.DecodedFramesFit : Prop :=
  ∀ (s : State) (b : Bytes) (f : Frame), Inv s → HoldsInput s b →
    (frameDecode b = .ok f ∨ frameDecodeFcs b = .ok f) →
    f.vlan.length ≤ s.params.maxTags ∧ f.payload.length + 14 ≤ s.ilen.toNat ∧ s.ilen.toNat ≤ s.params.bufBytes

/-! ### FCS (43_fcs.md) -/

/-- R172 without the length the spec derives: errors pass through, and the FCS of the whole base encoding is appended, first
byte crc[31:24]. The checksum itself rests on R170, which the spec supplies from general knowledge (log entry 16). -/
def Obligations.FcsEncodeAppendsBigEndianCrc : Prop :=
  ∀ f : Frame,
    (∀ e, frameEncode f = .err e → frameEncodeFcs f = .err e) ∧
    (∀ base, frameEncode f = .ok base →
      frameEncodeFcs f = .ok (base ++ [(crc32 base).extractLsb' 24 8, (crc32 base).extractLsb' 16 8,
        (crc32 base).extractLsb' 8 8, (crc32 base).extractLsb' 0 8])) ∧
    (∀ out, frameEncodeFcs f = .ok out → out.length = 14 + 4 * f.vlan.length + max f.payload.length 46 + 4)

/-- R173: fewer than 4 bytes, then the trailer, then the body's own result unchanged. -/
def Obligations.FcsDecodeChecksInOrder : Prop :=
  (∀ b : Bytes, b.length < 4 → frameDecodeFcs b = .err .truncatedInput) ∧
  (∀ (body : Bytes) (t0 t1 t2 t3 : Byte),
    (crc32 body ≠ t0 ++ t1 ++ t2 ++ t3 → frameDecodeFcs (body ++ [t0, t1, t2, t3]) = .err .checksumMismatch) ∧
    (crc32 body = t0 ++ t1 ++ t2 ++ t3 → frameDecodeFcs (body ++ [t0, t1, t2, t3]) = frameDecode body))

/-- 43_fcs.md section 3, the law the spec derives (R177): one flipped bit of an FCS frame, in the body or in the trailer, is
always detected. -/
def Obligations.EveryFlippedBitIsDetected : Prop :=
  ∀ (f : Frame) (b : Bytes), frameEncodeFcs f = .ok b →
    ∀ (k : Nat) (hk : k < b.length) (j : Nat), j < 8 →
      frameDecodeFcs (b.set k (b[k] ^^^ (1#8 <<< j))) = .err .checksumMismatch

/-- 43_fcs.md section 3, the law the spec derives (R178): the FCS round trip gives the frame back, its payload padded. -/
def Obligations.FcsRoundTripGivesThePaddedFrame : Prop :=
  ∀ f : Frame, IdsValid f.vlan → f.etype ≠ 0x8100#16 →
    ∃ b, frameEncodeFcs f = .ok b ∧
      frameDecodeFcs b = .ok { f with payload := f.payload ++ List.replicate (46 - f.payload.length) 0x00#8 }

/-- 93_implementation_defined.md G4 (general knowledge, as the spec marks it): with a least-significant-first trailer the CRC
over body plus trailer is the constant residue 0x2144DF1C. -/
def Obligations.CrcResidueOfReversedTrailer : Prop :=
  ∀ b : Bytes, crc32 (b ++ (be32 (crc32 b)).reverse) = 0x2144DF1C#32

/-! ### The six commands -/

/-- R103: VLAN_ENC. -/
def Obligations.VlanEncCommand : Prop :=
  decode 0x00000001#32 = .command .vlanEnc ∧
  (∀ (s : State) (g : VlanTag), s.tag = some g → g.vid ≠ 0xFFF#12 →
    ∃ t, exec .vlanEnc s = .next t ∧
      OutputIs t [g.pri ++ g.dei ++ g.vid.extractLsb' 8 4, g.vid.extractLsb' 0 8] ∧ OnlyOutputChanged s t) ∧
  (∀ (s : State) (g : VlanTag), s.tag = some g → g.vid = 0xFFF#12 → exec .vlanEnc s = .next (failedWith 1#3 s)) ∧
  (∀ s : State, s.tag = none → exec .vlanEnc s = .fault .unwrittenRead)

/-- R104: VLAN_DEC. -/
def Obligations.VlanDecCommand : Prop :=
  decode 0x00000002#32 = .command .vlanDec ∧
  (∀ (s : State) (b0 b1 : Byte), HoldsInput s [b0, b1] → b0.extractLsb' 0 4 ++ b1 ≠ 0xFFF#12 →
    exec .vlanDec s =
      .next { s with
        tag := some { pri := b0.extractLsb' 5 3, dei := b0.extractLsb' 4 1, vid := b0.extractLsb' 0 4 ++ b1 }
        status := { busy := false, ok := true, err := 0#3 }
        pend := none }) ∧
  (∀ (s : State) (b0 b1 : Byte), HoldsInput s [b0, b1] → b0.extractLsb' 0 4 ++ b1 = 0xFFF#12 →
    exec .vlanDec s = .next (failedWith 1#3 s)) ∧
  (∀ (s : State) (b : Bytes), HoldsInput s b → s.ilen.toNat ≠ 2 → exec .vlanDec s = .next (failedWith 2#3 s)) ∧
  (∀ s : State, LacksInput s → exec .vlanDec s = .fault .unwrittenRead)

/-- R125: FRM_ENC. Oversize comes before anything else, then UnwrittenRead, then the tag IDs. -/
def Obligations.FrmEncCommand : Prop :=
  decode 0x00000003#32 = .command .frmEnc ∧
  (∀ s : State, s.params.bufBytes < 14 + 4 * s.vcount.toNat + max s.ilen.toNat 46 →
    exec .frmEnc s = .refused .oversize) ∧
  (∀ s : State, 14 + 4 * s.vcount.toNat + max s.ilen.toNat 46 ≤ s.params.bufBytes →
    (LacksFrame s → exec .frmEnc s = .fault .unwrittenRead) ∧
    (∀ f, HoldsFrame s f →
      ((∃ t ∈ f.vlan, t.vid = 0xFFF#12) → exec .frmEnc s = .next (failedWith 1#3 s)) ∧
      (s.params.wf = true → IdsValid f.vlan →
        ∃ r t, frameEncode f = .ok r ∧ exec .frmEnc s = .next t ∧ OutputIs t r ∧ OnlyOutputChanged s t)))

/-- R149: FRM_DEC, its result that of the core function on the input bytes; tag count and payload of a result always fit. -/
def Obligations.FrmDecCommand : Prop :=
  decode 0x00000004#32 = .command .frmDec ∧
  (∀ s : State, LacksInput s → exec .frmDec s = .fault .unwrittenRead) ∧
  (∀ (s : State) (b : Bytes), HoldsInput s b →
    (∀ f, frameDecode b = .ok f →
      ∃ t, exec .frmDec s = .next t ∧ FrameInRegisters t f ∧ OnlyFrameChanged s t) ∧
    (frameDecode b = .err .invalidVlanId → exec .frmDec s = .next (failedWith 1#3 s)) ∧
    (frameDecode b = .err .truncatedInput → exec .frmDec s = .next (failedWith 2#3 s)) ∧
    frameDecode b ≠ .err .checksumMismatch ∧
    (∀ f, frameDecode b = .ok f → Inv s →
      f.vlan.length ≤ s.params.maxTags ∧ f.payload.length + 14 ≤ s.ilen.toNat ∧ s.ilen.toNat ≤ s.params.bufBytes))

/-- R175: FRM_ENC_FCS. -/
def Obligations.FrmEncFcsCommand : Prop :=
  decode 0x00000005#32 = .command .frmEncFcs ∧
  (∀ s : State, s.params.bufBytes < 14 + 4 * s.vcount.toNat + max s.ilen.toNat 46 + 4 →
    exec .frmEncFcs s = .refused .oversize) ∧
  (∀ s : State, 14 + 4 * s.vcount.toNat + max s.ilen.toNat 46 + 4 ≤ s.params.bufBytes →
    (LacksFrame s → exec .frmEncFcs s = .fault .unwrittenRead) ∧
    (∀ f, HoldsFrame s f →
      ((∃ t ∈ f.vlan, t.vid = 0xFFF#12) → exec .frmEncFcs s = .next (failedWith 1#3 s)) ∧
      (s.params.wf = true → IdsValid f.vlan →
        ∃ r t, frameEncode f = .ok r ∧ exec .frmEncFcs s = .next t ∧ OutputIs t (r ++ be32 (crc32 r)) ∧
          OnlyOutputChanged s t)))

/-- R176: FRM_DEC_FCS, by the bytes of body and trailer. -/
def Obligations.FrmDecFcsCommand : Prop :=
  decode 0x00000006#32 = .command .frmDecFcs ∧
  (∀ s : State, LacksInput s → exec .frmDecFcs s = .fault .unwrittenRead) ∧
  (∀ (s : State) (b : Bytes), HoldsInput s b → s.ilen.toNat < 4 → exec .frmDecFcs s = .next (failedWith 2#3 s)) ∧
  (∀ (s : State) (body : Bytes) (t0 t1 t2 t3 : Byte), HoldsInput s (body ++ [t0, t1, t2, t3]) →
    (crc32 body ≠ t0 ++ t1 ++ t2 ++ t3 → exec .frmDecFcs s = .next (failedWith 3#3 s)) ∧
    (crc32 body = t0 ++ t1 ++ t2 ++ t3 →
      (∀ f, frameDecode body = .ok f →
        ∃ t, exec .frmDecFcs s = .next t ∧ FrameInRegisters t f ∧ OnlyFrameChanged s t) ∧
      (frameDecode body = .err .invalidVlanId → exec .frmDecFcs s = .next (failedWith 1#3 s)) ∧
      (frameDecode body = .err .truncatedInput → exec .frmDecFcs s = .next (failedWith 2#3 s))))

/-- 42_frame_decode.md section 3 and 43_fcs.md section 4: with the wire bytes of a frame of full length in IBUF, FRM_DEC
completes with that frame in the registers, and with the FCS behind them FRM_DEC_FCS does. -/
def Obligations.DecodeCommandsLoadTheFrameOnTheWire : Prop :=
  ∀ (s : State) (f : Frame), IdsValid f.vlan → f.etype ≠ 0x8100#16 → 46 ≤ f.payload.length →
    (HoldsInput s (wireBytes f) →
      ∃ t, exec .frmDec s = .next t ∧ FrameInRegisters t f ∧ OnlyFrameChanged s t) ∧
    (HoldsInput s (wireBytes f ++ be32 (crc32 (wireBytes f))) →
      ∃ t, exec .frmDecFcs s = .next t ∧ FrameInRegisters t f ∧ OnlyFrameChanged s t)

/-- 70_reset_and_hazards.md section 3 (R233, R244): each of the six commands completes, with STATUS and PEND as a completion
leaves them, whenever the locations it reads hold values and an encode's output fits. -/
def Obligations.EveryCommandCompletes : Prop :=
  ∀ s : State,
    ((∃ g, s.tag = some g) →
      ∃ t, exec .vlanEnc s = .next t ∧ t.pend = none ∧ t.status.busy = false) ∧
    ((∃ b, HoldsInput s b) →
      (∃ t, exec .vlanDec s = .next t ∧ t.pend = none ∧ t.status.busy = false) ∧
      (∃ t, exec .frmDec s = .next t ∧ t.pend = none ∧ t.status.busy = false) ∧
      (∃ t, exec .frmDecFcs s = .next t ∧ t.pend = none ∧ t.status.busy = false)) ∧
    ((∃ f, HoldsFrame s f) →
      (14 + 4 * s.vcount.toNat + max s.ilen.toNat 46 ≤ s.params.bufBytes →
        ∃ t, exec .frmEnc s = .next t ∧ t.pend = none ∧ t.status.busy = false) ∧
      (14 + 4 * s.vcount.toNat + max s.ilen.toNat 46 + 4 ≤ s.params.bufBytes →
        ∃ t, exec .frmEncFcs s = .next t ∧ t.pend = none ∧ t.status.busy = false))

/-! ### Completion and frames (60_exceptions.md, 20_memory.md section 3) -/

/-- R205: completing with an error writes STATUS with the error's code and clears PEND, and nothing else changes; every
command that fails, and every illegal word, completes so. -/
def Obligations.ErrorsChangeOnlyStatus : Prop :=
  (∀ s : State,
    completeErr (.core .invalidVlanId) s = failedWith 1#3 s ∧ completeErr (.core .truncatedInput) s = failedWith 2#3 s ∧
    completeErr (.core .checksumMismatch) s = failedWith 3#3 s ∧ completeErr .illegalCommand s = failedWith 4#3 s) ∧
  (∀ (i : Instr) (s t : State), exec i s = .next t → t.status.ok = false → ∃ e, t = completeErr (.core e) s) ∧
  (∀ (s : State) (w : Word) (why : IllegalWord), s.pend = some w → decode w = .illegal why →
    blockMove s = .next (completeErr .illegalCommand s))

/-- 20_memory.md section 3 (R59) and 60_exceptions.md section 2 (R206), the frame of every command on success: what each
leaves unchanged, byte of memory by byte of memory, with the bytes stored to named by OLEN. -/
def Obligations.CommandsLeaveAllElseUnchanged : Prop :=
  ∀ (i : Instr) (s t : State), exec i s = .next t →
    t.ilen = s.ilen ∧ (∀ k, Memory.read t.ibuf k = Memory.read s.ibuf k) ∧ t.params = s.params ∧ t.issues = s.issues ∧
    t.program = s.program ∧ t.reads = s.reads ∧ t.turns = s.turns ∧
    (i ≠ .vlanDec → t.tag = s.tag) ∧
    (i = .vlanDec → (∀ k, Memory.read t.obuf k = Memory.read s.obuf k) ∧ t.olen = s.olen) ∧
    (i ≠ .frmDec → i ≠ .frmDecFcs →
      t.dstH = s.dstH ∧ t.dstL = s.dstL ∧ t.srcH = s.srcH ∧ t.srcL = s.srcL ∧ t.etype = s.etype ∧
      t.vcount = s.vcount ∧ ∀ j, Memory.read t.vlan j = Memory.read s.vlan j) ∧
    (t.status.ok = true → i ≠ .vlanDec → s.params.wf = true →
      ∀ k, t.olen.toNat ≤ k → Memory.read t.obuf k = none)

/-- 10_state.md section 1 (R20): a command's outcome, its STATUS and its results depend only on the operands its rule names;
bytes from ILEN on and entries from VCOUNT on are not read. -/
def Obligations.CommandsReadOnlyTheirOperands : Prop :=
  ∀ s₁ s₂ : State,
    (s₁.tag = s₂.tag →
      SameEnd (fun t₁ t₂ => t₁.obuf = t₂.obuf ∧ t₁.olen = t₂.olen) (exec .vlanEnc s₁) (exec .vlanEnc s₂)) ∧
    (SameInput s₁ s₂ →
      SameEnd (fun t₁ t₂ => t₁.tag = t₂.tag) (exec .vlanDec s₁) (exec .vlanDec s₂) ∧
      (∀ i, i = .frmDec ∨ i = .frmDecFcs →
        SameEnd (fun t₁ t₂ => t₁.dstH = t₂.dstH ∧ t₁.dstL = t₂.dstL ∧ t₁.srcH = t₂.srcH ∧ t₁.srcL = t₂.srcL ∧
          t₁.etype = t₂.etype ∧ t₁.vcount = t₂.vcount ∧ t₁.vlan = t₂.vlan ∧ t₁.obuf = t₂.obuf ∧ t₁.olen = t₂.olen)
          (exec i s₁) (exec i s₂))) ∧
    (SameFrameOperands s₁ s₂ → s₁.params.bufBytes = s₂.params.bufBytes →
      ∀ i, i = .frmEnc ∨ i = .frmEncFcs →
        SameEnd (fun t₁ t₂ => t₁.obuf = t₂.obuf ∧ t₁.olen = t₂.olen) (exec i s₁) (exec i s₂))

/-! ### Steps -/

/-- 20_memory.md section 4 (R61): when the pending word decodes to a command and it is the block's move, the step is that
command's meaning on the state with one turn used up; an illegal word completes as IllegalCommand. -/
def Obligations.StepRunsTheDecodedCommand : Prop :=
  ∀ (s : State) (w : Word), s.pend = some w → (s.turns = [] ∨ s.turns.head? = some .block) →
    (∀ i, decode w = .command i → i.wf = true → step s = exec i { s with turns := s.turns.tail }) ∧
    (∀ why, decode w = .illegal why → step s = .next (failedWith 4#3 { s with turns := s.turns.tail }))

/-- 20_memory.md section 4 (R61) and 30_encoding.md section 6 (R92): when it is the host's move, the step performs the next
statement of its program, in order; with none left nothing changes but the turn. That the reset input is such a statement is
log entry 13. -/
def Obligations.StepPerformsTheHostsNextStatement : Prop :=
  ∀ s : State, (s.turns = [] ∧ s.pend = none ∨ s.turns.head? = some .host) →
    (s.program = [] → step s = .next { s with turns := s.turns.tail }) ∧
    (∀ acc rest, s.program = .access acc :: rest →
      step s = busAccess acc { s with program := rest, turns := s.turns.tail }) ∧
    (∀ rest, s.program = .reset :: rest →
      hostMove s = .next (resetInput { s with program := rest }) ∧
      step s = .next (resetInput { s with program := rest, turns := s.turns.tail }))

/-- The interface's fetch (log entry 4): the next step runs exactly the command whose word was placed. -/
def Obligations.FetchedWordRunsNext : Prop :=
  ∀ (s : State) (i : Instr),
    step (s.withFetchWord 32 (encode i).toNat) =
      exec i { s with pend := some (encode i), status := { busy := true, ok := false, err := 0#3 }, issues := s.issues + 1 }

/-- 30_encoding.md section 6 (R93): WAIT reads STATUS; it stays while BUSY = 1 and is done with when BUSY = 0. RUN is the CMD
write followed by WAIT. -/
def Obligations.WaitPollsUntilIdle : Prop :=
  (∀ (s : State) (rest : List HostStmt), s.program = .wait :: rest →
    (s.status.busy = true → hostMove s = .next (recordRead 0x00004#18 s.status.word s)) ∧
    (s.status.busy = false → hostMove s = .next (recordRead 0x00004#18 s.status.word { s with program := rest }))) ∧
  (∀ i : Instr, stmtRun i = [.access (.write .w32 0x00000#18 (encode i)), .wait])

/-- 70_reset_and_hazards.md section 3 (R244), with the model's schedule (log entry 3): a pending command is completed, or
abandoned by a reset, within one step more than the turns laid out, unless the run stops first. -/
def Obligations.PendingCommandIsCompleted : Prop :=
  ∀ s : State, s.pend.isSome = true →
    ∃ k, k ≤ s.turns.length + 1 ∧ ((∃ t, runSteps k s = .next t ∧ t.pend = none) ∨ ¬ SafeFor k s)

/-! ### Reset (70_reset_and_hazards.md section 1) -/

/-- R230, R231: the reset input puts every piece of state in its reset value, whatever command is pending, and a host cannot
tell an abandoned command from one never issued. -/
def Obligations.ResetInputRestoresEveryValue : Prop :=
  ∀ s : State,
    (resetInput s).status.word = 0x00000000#32 ∧ (resetInput s).pend = none ∧
    (resetInput s).ilen = 0#17 ∧ (resetInput s).olen = 0#17 ∧ (resetInput s).vcount = 0#16 ∧
    (resetInput s).dstH = none ∧ (resetInput s).dstL = none ∧ (resetInput s).srcH = none ∧
    (resetInput s).srcL = none ∧ (resetInput s).etype = none ∧ (resetInput s).tag = none ∧
    (∀ j, Memory.read (resetInput s).vlan j = none) ∧
    (∀ k, Memory.read (resetInput s).ibuf k = none) ∧ (∀ k, Memory.read (resetInput s).obuf k = none) ∧
    (∀ p st, resetInput { s with pend := p, status := st } = resetInput s)

/-- R232: after reset the block is idle and accepts a command at once. -/
def Obligations.ResetBlockAcceptsACommandAtOnce : Prop :=
  ∀ (s : State) (w : Word),
    (resetInput s).status.busy = false ∧
    ∃ t, hostWrite 0x00000#18 w (resetInput s) = .next t ∧ t.pend = some w ∧ t.status.word = 0x00000001#32

/-! ### Registers and flags (10_state.md) -/

/-- 10_state.md section 5 (R30) with 20_memory.md section 1 (R50): the location at every mapped address. -/
def Obligations.RegisterMapPlacesEveryLocation : Prop :=
  ∀ p : Params,
    locate p 0x00000#18 = .cmd ∧ locate p 0x00004#18 = .status ∧ locate p 0x00008#18 = .ilen ∧
    locate p 0x0000C#18 = .olen ∧ locate p 0x00010#18 = .dstH ∧ locate p 0x00014#18 = .dstL ∧
    locate p 0x00018#18 = .srcH ∧ locate p 0x0001C#18 = .srcL ∧ locate p 0x00020#18 = .etype ∧
    locate p 0x00024#18 = .vcount ∧ locate p 0x00028#18 = .tag ∧
    (∀ j, j < p.maxTags → j < 16384 → locate p (BitVec.ofNat 18 (0x10000 + 4 * j)) = .vlan j) ∧
    (∀ k, k < p.bufBytes → k < 65536 →
      locate p (BitVec.ofNat 18 (0x20000 + k)) = .ibuf k ∧ locate p (BitVec.ofNat 18 (0x30000 + k)) = .obuf k)

/-- R31: a CMD write issues while BUSY = 0, is a hazard while BUSY = 1; CMD reads 0; an illegal word completes as
IllegalCommand. -/
def Obligations.CmdWriteIssues : Prop :=
  ∀ (s : State) (w : Word),
    (s.status.busy = false →
      hostWrite 0x00000#18 w s =
        .next { s with pend := some w, status := { busy := true, ok := false, err := 0#3 }, issues := s.issues + 1 }) ∧
    (s.status.busy = true → hostWrite 0x00000#18 w s = .fault .busyWrite) ∧
    hostRead 0x00000#18 s = .next (recordRead 0x00000#18 0#32 s) ∧
    (∀ why, decode w = .illegal why → s.pend = some w → blockMove s = .next (failedWith 4#3 s))

/-- 10_state.md section 5, the fields of R32: the STATUS word bit by bit, as a host reads it. -/
def Obligations.StatusWordLayout : Prop :=
  ∀ s : State, hostRead 0x00004#18 s = .next (recordRead 0x00004#18 s.status.word s) ∧
    s.status.word.getLsbD 0 = s.status.busy ∧ s.status.word.getLsbD 1 = s.status.ok ∧
    s.status.word.extractLsb' 2 3 = s.status.err ∧ s.status.word.extractLsb' 5 27 = 0#27

/-- R28: the flags are written only at issue and at completion, besides the reset input, which makes them 0; no command reads
them as an operand. -/
def Obligations.FlagsChangeOnlyAtIssueAndCompletion : Prop :=
  (∀ s t : State, step s = .next t → t.status ≠ s.status →
    (s.status.busy = false ∧ t.status = { busy := true, ok := false, err := 0#3 } ∧
      ∃ w rest, s.program = .access (.write .w32 0x00000#18 w) :: rest ∧ t.pend = some w) ∨
    (s.pend.isSome = true ∧ t.pend = none ∧ t.status.busy = false ∧ (t.status.ok = true ↔ t.status.err = 0#3)) ∨
    (t.status = { busy := false, ok := false, err := 0#3 } ∧ ∃ rest, s.program = .reset :: rest)) ∧
  (∀ (i : Instr) (s : State) (st : Status), exec i { s with status := st } = exec i s) ∧
  (∀ p : Params, (State.resetWith p).status = { busy := false, ok := false, err := 0#3 })

/-- R43: reserved bits read 0, a host write keeps the defined fields only, and CMD is the one exception; a write of an IBUF
byte, which has no reserved bit, stores the byte (10_state.md section 5, R35). -/
def Obligations.RegistersKeepDefinedFieldsOnly : Prop :=
  (∀ (s : State) (d : Word), s.status.busy = false →
    (∀ a, a = 0x00014#18 ∨ a = 0x0001C#18 →
      ∃ t, hostWrite a d s = .next t ∧ hostRead a t = .next (recordRead a d t)) ∧
    (∀ a, a = 0x00010#18 ∨ a = 0x00018#18 ∨ a = 0x00020#18 →
      ∃ t, hostWrite a d s = .next t ∧ hostRead a t = .next (recordRead a (d &&& 0x0000FFFF#32) t)) ∧
    (∃ t, hostWrite 0x00028#18 d s = .next t ∧
      hostRead 0x00028#18 t = .next (recordRead 0x00028#18 (d &&& 0x07010FFF#32) t)) ∧
    (∀ j, j < s.params.maxTags → j < 16384 →
      ∃ t, hostWrite (BitVec.ofNat 18 (0x10000 + 4 * j)) d s = .next t ∧
        hostRead (BitVec.ofNat 18 (0x10000 + 4 * j)) t =
          .next (recordRead (BitVec.ofNat 18 (0x10000 + 4 * j)) (d &&& 0x07010FFF#32) t)) ∧
    (∀ (k : Nat) (b : Byte), k < s.params.bufBytes → k < 65536 →
      ∃ t, hostWriteByte (BitVec.ofNat 18 (0x20000 + k)) b s = .next t ∧
        hostReadByte (BitVec.ofNat 18 (0x20000 + k)) t =
          .next (recordRead (BitVec.ofNat 18 (0x20000 + k)) (b.zeroExtend 32) t)) ∧
    (∀ t, hostWrite 0x00008#18 d s = .next t →
      hostRead 0x00008#18 t = .next (recordRead 0x00008#18 (d &&& 0x0001FFFF#32) t)) ∧
    (∀ t, hostWrite 0x00024#18 d s = .next t →
      hostRead 0x00024#18 t = .next (recordRead 0x00024#18 (d &&& 0x0000FFFF#32) t))) ∧
  (∀ (s : State) (a : BusAddr) (v : Word), hostRead a s = .next (recordRead a v s) →
    (a = 0x00004#18 → v &&& 0xFFFFFFE0#32 = 0#32) ∧
    (a = 0x00008#18 ∨ a = 0x0000C#18 → v &&& 0xFFFE0000#32 = 0#32) ∧
    (a = 0x00010#18 ∨ a = 0x00018#18 ∨ a = 0x00020#18 ∨ a = 0x00024#18 → v &&& 0xFFFF0000#32 = 0#32) ∧
    (a = 0x00028#18 ∨ 0x10000 ≤ a.toNat ∧ a.toNat < 0x20000 → v &&& 0xF8FEF000#32 = 0#32)) ∧
  (∀ w : Word, w.extractLsb' 3 29 ≠ 0#29 → ∃ why, decode w = .illegal why)

/-- 10_state.md section 5, the bounds of R33 and R39, judged by the register's field (the model's reading, log entry 10). -/
def Obligations.LengthAndCountWritesAreBounded : Prop :=
  ∀ (s : State) (d : Word), s.status.busy = false →
    ((d.extractLsb' 0 17).toNat ≤ s.params.bufBytes →
      hostWrite 0x00008#18 d s = .next { s with ilen := d.extractLsb' 0 17 }) ∧
    (s.params.bufBytes < (d.extractLsb' 0 17).toNat → hostWrite 0x00008#18 d s = .refused .illegalValue) ∧
    ((d.extractLsb' 0 16).toNat ≤ s.params.maxTags →
      hostWrite 0x00024#18 d s = .next { s with vcount := d.extractLsb' 0 16 }) ∧
    (s.params.maxTags < (d.extractLsb' 0 16).toNat → hostWrite 0x00024#18 d s = .refused .illegalValue)

/-- 10_state.md section 3 (R25) and section 5 while the block is idle (while it is busy see ReadsWhileBusy): a host read of a
location with no value faults, and of one that holds a value returns it. -/
def Obligations.HostReadsOfNoValueFault : Prop :=
  ∀ s : State, s.status.busy = false →
    (s.dstH = none → hostRead 0x00010#18 s = .fault .unwrittenRead) ∧
    (∀ v, s.dstH = some v → hostRead 0x00010#18 s = .next (recordRead 0x00010#18 (v.zeroExtend 32) s)) ∧
    (s.dstL = none → hostRead 0x00014#18 s = .fault .unwrittenRead) ∧
    (∀ v, s.dstL = some v → hostRead 0x00014#18 s = .next (recordRead 0x00014#18 v s)) ∧
    (s.srcH = none → hostRead 0x00018#18 s = .fault .unwrittenRead) ∧
    (∀ v, s.srcH = some v → hostRead 0x00018#18 s = .next (recordRead 0x00018#18 (v.zeroExtend 32) s)) ∧
    (s.srcL = none → hostRead 0x0001C#18 s = .fault .unwrittenRead) ∧
    (∀ v, s.srcL = some v → hostRead 0x0001C#18 s = .next (recordRead 0x0001C#18 v s)) ∧
    (s.etype = none → hostRead 0x00020#18 s = .fault .unwrittenRead) ∧
    (∀ v, s.etype = some v → hostRead 0x00020#18 s = .next (recordRead 0x00020#18 (v.zeroExtend 32) s)) ∧
    (s.tag = none → hostRead 0x00028#18 s = .fault .unwrittenRead) ∧
    (∀ g, s.tag = some g → hostRead 0x00028#18 s = .next (recordRead 0x00028#18 (tagToVtag g) s)) ∧
    hostRead 0x00008#18 s = .next (recordRead 0x00008#18 (s.ilen.zeroExtend 32) s) ∧
    hostRead 0x0000C#18 s = .next (recordRead 0x0000C#18 (s.olen.zeroExtend 32) s) ∧
    hostRead 0x00024#18 s = .next (recordRead 0x00024#18 (s.vcount.zeroExtend 32) s) ∧
    (∀ j, j < s.params.maxTags → j < 16384 →
      (Memory.read s.vlan j = none →
        hostRead (BitVec.ofNat 18 (0x10000 + 4 * j)) s = .fault .unwrittenRead) ∧
      (∀ g, Memory.read s.vlan j = some g →
        hostRead (BitVec.ofNat 18 (0x10000 + 4 * j)) s =
          .next (recordRead (BitVec.ofNat 18 (0x10000 + 4 * j)) (tagToVtag g) s))) ∧
    (∀ k, k < s.params.bufBytes → k < 65536 →
      (Memory.read s.ibuf k = none →
        hostReadByte (BitVec.ofNat 18 (0x20000 + k)) s = .fault .unwrittenRead) ∧
      (∀ v, Memory.read s.ibuf k = some v →
        hostReadByte (BitVec.ofNat 18 (0x20000 + k)) s =
          .next (recordRead (BitVec.ofNat 18 (0x20000 + k)) (v.zeroExtend 32) s)) ∧
      (Memory.read s.obuf k = none →
        hostReadByte (BitVec.ofNat 18 (0x30000 + k)) s = .fault .unwrittenRead) ∧
      (∀ v, Memory.read s.obuf k = some v →
        hostReadByte (BitVec.ofNat 18 (0x30000 + k)) s =
          .next (recordRead (BitVec.ofNat 18 (0x30000 + k)) (v.zeroExtend 32) s)))

/-! ### The bus (20_memory.md, 70_reset_and_hazards.md section 2) -/

/-- R51: 32-bit accesses at multiples of 4 to the register window and the tag array, 8-bit accesses to the buffers; none of
these is refused, and every other read, and every other write of an idle block, is. Writes while busy, and the aligned 32-bit
access between the windows: BusChoicesOfTheModel. -/
def Obligations.WrongAccessesAreRefused : Prop :=
  ∀ (s : State) (w : Width) (a : BusAddr) (d : Word),
    (a.toNat < 0x20000 →
      (w ≠ .w32 ∨ a.toNat % 4 ≠ 0 →
        busRead w a s = .refused .badAccess ∧ (s.status.busy = false → busWrite w a d s = .refused .badAccess)) ∧
      (a.toNat < 0x100 ∨ 0x10000 ≤ a.toNat → w = .w32 → a.toNat % 4 = 0 →
        busRead w a s ≠ .refused .badAccess ∧ (s.status.busy = false → busWrite w a d s ≠ .refused .badAccess))) ∧
    (0x20000 ≤ a.toNat →
      (w ≠ .w8 →
        busRead w a s = .refused .badAccess ∧ (s.status.busy = false → busWrite w a d s = .refused .badAccess)) ∧
      (w = .w8 →
        busRead w a s ≠ .refused .badAccess ∧ (s.status.busy = false → busWrite w a d s ≠ .refused .badAccess)))

/-- R52: reads of unoccupied addresses return 0 and writes to them are ignored, and so are writes to STATUS, OLEN and OBUF
(writes while idle; R240 has those while busy). -/
def Obligations.UnmappedAddressesReadZero : Prop :=
  ∀ (s : State) (w : Width) (a : BusAddr) (d : Word),
    ((0x2C ≤ a.toNat ∧ a.toNat < 0x100 ∧ a.toNat % 4 = 0 ∧ w = .w32 ∨
      0x100 ≤ a.toNat ∧ a.toNat < 0x10000 ∧ a.toNat % 4 = 0 ∧ w = .w32 ∨
      0x10000 ≤ a.toNat ∧ a.toNat < 0x20000 ∧ a.toNat % 4 = 0 ∧ w = .w32 ∧ s.params.maxTags ≤ (a.toNat - 0x10000) / 4 ∨
      0x20000 ≤ a.toNat ∧ a.toNat < 0x30000 ∧ w = .w8 ∧ s.params.bufBytes ≤ a.toNat - 0x20000 ∨
      0x30000 ≤ a.toNat ∧ w = .w8 ∧ s.params.bufBytes ≤ a.toNat - 0x30000) →
      busRead w a s = .next (recordRead a 0#32 s) ∧ (s.status.busy = false → busWrite w a d s = .next s)) ∧
    (s.status.busy = false →
      hostWrite 0x00004#18 d s = .next s ∧ hostWrite 0x0000C#18 d s = .next s ∧
      (0x30000 ≤ a.toNat → busWrite .w8 a d s = .next s)) ∧
    hostRead 0x00000#18 s = .next (recordRead 0x00000#18 0#32 s)

/-- 20_memory.md section 3 (R57): a CMD write issues; no other write has an effect beyond the location it names; reads have no
effect but the value read, and as long as the block's state is the same a second read, whatever was read between, returns the
same value. That a free draw is the same for both reads is the model's form of it (log entry 6). -/
def Obligations.AccessesHaveNoOtherEffect : Prop :=
  (∀ (w : Width) (a : BusAddr) (s t : State), busRead w a s = .next t →
    ∃ v, t = recordRead a v s ∧
      ∀ (r : List HostRead) (p : List HostStmt) (u : List Agent),
        busRead w a { s with reads := r, program := p, turns := u } =
          .next (recordRead a v { s with reads := r, program := p, turns := u })) ∧
  (∀ (w : Width) (a : BusAddr) (d : Word) (s t : State), busWrite w a d s = .next t →
    (a = 0x00000#18 →
      t = { s with pend := some d, status := { busy := true, ok := false, err := 0#3 }, issues := s.issues + 1 }) ∧
    (a ≠ 0x00000#18 →
      t.status = s.status ∧ t.pend = s.pend ∧ t.params = s.params ∧ t.issues = s.issues ∧ t.program = s.program ∧
      t.reads = s.reads ∧ t.turns = s.turns ∧
      ∀ l, l ≠ locate s.params a → readLocation t l = readLocation s l))

/-- R240: a host write of any location while BUSY = 1 is the fault BusyWrite. -/
def Obligations.WritesWhileBusyFault : Prop :=
  ∀ (s : State) (d : Word), s.status.busy = true →
    (∀ a : BusAddr, a.toNat < 0x20000 → a.toNat % 4 = 0 → locate s.params a ≠ .unmapped →
      hostWrite a d s = .fault .busyWrite) ∧
    (∀ (a : BusAddr) (b : Byte), 0x20000 ≤ a.toNat → locate s.params a ≠ .unmapped →
      hostWriteByte a b s = .fault .busyWrite)

/-- The model's own choices on the bus, beside 20_memory.md section 1 and 70_reset_and_hazards.md section 2: between the windows
the legal access is the aligned 32-bit one, which is not refused (log entry 9); a wrong access is refused before anything else,
and while BUSY = 1 a legal write of any address, an unmapped one too, is the fault BusyWrite (log entry 8). -/
def Obligations.BusChoicesOfTheModel : Prop :=
  ∀ (s : State) (w : Width) (a : BusAddr) (d : Word),
    (0x100 ≤ a.toNat → a.toNat < 0x10000 → (legalAccess w a = true ↔ w = .w32 ∧ a.toNat % 4 = 0)) ∧
    (legalAccess w a = true →
      busRead w a s ≠ .refused .badAccess ∧ (s.status.busy = false → busWrite w a d s ≠ .refused .badAccess)) ∧
    (legalAccess w a = false → busRead w a s = .refused .badAccess ∧ busWrite w a d s = .refused .badAccess) ∧
    (legalAccess w a = true → s.status.busy = true → busWrite w a d s = .fault .busyWrite)

/-- 70_reset_and_hazards.md section 2 (R241) with 10_state.md section 3 (R25): while BUSY = 1 a STATUS read gives BUSY = 1,
OK = 0, ERR = 0; a legal read of a result location of the pending command never faults, whatever it holds (a free draw); any
other location returns its value, and faults UnwrittenRead if it holds none (log entry 7). No read disturbs the command. -/
def Obligations.ReadsWhileBusy : Prop :=
  ∀ (s : State) (w : Word), s.status.busy = true → s.status.legal = true → s.pend = some w →
    hostRead 0x00004#18 s = .next (recordRead 0x00004#18 0x00000001#32 s) ∧
    (∀ wd a, legalAccess wd a = true →
      (¬ FixedWhilePending w (locate s.params a) → ∃ v, busRead wd a s = .next (recordRead a v s)) ∧
      (FixedWhilePending w (locate s.params a) →
        (∀ v, readLocation s (locate s.params a) = some v → busRead wd a s = .next (recordRead a v s)) ∧
        (readLocation s (locate s.params a) = none → busRead wd a s = .fault .unwrittenRead)))

/-! ### The invariant -/

/-- The invariant holds after reset, for every legal value of the parameters and for `State.reset`. -/
def Obligations.InvariantHoldsAtReset : Prop :=
  (∀ p : Params, p.wf = true → Inv (State.resetWith p)) ∧ Inv State.reset

/-- 10_state.md section 5 and section 6, 20_memory.md section 1, 60_exceptions.md section 1: every step keeps the invariant.
The parameters stay legal, BUSY = 1 exactly when a command is pending, STATUS has a legal value, ILEN, OLEN and VCOUNT stay in
their bounds, the stored arrays keep their canonical form, and OBUF[i] holds a value exactly when i < OLEN. -/
def Obligations.EveryStepKeepsTheInvariant : Prop :=
  ∀ s t : State, Inv s → step s = .next t → Inv t
end

