-- ==== Sys2Proof/Laws/State.lean ====
section
/-! SUPPORT. What each operation over the state leaves in each field: one lemma per field and operation. -/

namespace Sys2Proof.Machine

@[simp] theorem issue_status (w : Word) (s : State) : (issue w s).status = Status.issued := rfl
@[simp] theorem issue_pend (w : Word) (s : State) : (issue w s).pend = some w := rfl
@[simp] theorem issue_ilen (w : Word) (s : State) : (issue w s).ilen = s.ilen := rfl
@[simp] theorem issue_olen (w : Word) (s : State) : (issue w s).olen = s.olen := rfl
@[simp] theorem issue_ibuf (w : Word) (s : State) : (issue w s).ibuf = s.ibuf := rfl
@[simp] theorem issue_obuf (w : Word) (s : State) : (issue w s).obuf = s.obuf := rfl
@[simp] theorem issue_dstH (w : Word) (s : State) : (issue w s).dstH = s.dstH := rfl
@[simp] theorem issue_dstL (w : Word) (s : State) : (issue w s).dstL = s.dstL := rfl
@[simp] theorem issue_srcH (w : Word) (s : State) : (issue w s).srcH = s.srcH := rfl
@[simp] theorem issue_srcL (w : Word) (s : State) : (issue w s).srcL = s.srcL := rfl
@[simp] theorem issue_etype (w : Word) (s : State) : (issue w s).etype = s.etype := rfl
@[simp] theorem issue_vcount (w : Word) (s : State) : (issue w s).vcount = s.vcount := rfl
@[simp] theorem issue_tag (w : Word) (s : State) : (issue w s).tag = s.tag := rfl
@[simp] theorem issue_vlan (w : Word) (s : State) : (issue w s).vlan = s.vlan := rfl
@[simp] theorem issue_params (w : Word) (s : State) : (issue w s).params = s.params := rfl
@[simp] theorem issue_issues (w : Word) (s : State) : (issue w s).issues = s.issues + 1 := rfl
@[simp] theorem issue_program (w : Word) (s : State) : (issue w s).program = s.program := rfl
@[simp] theorem issue_reads (w : Word) (s : State) : (issue w s).reads = s.reads := rfl
@[simp] theorem issue_turns (w : Word) (s : State) : (issue w s).turns = s.turns := rfl

@[simp] theorem completeErr_status (e : CmdError) (s : State) : (completeErr e s).status = Status.failed e := rfl
@[simp] theorem completeErr_pend (e : CmdError) (s : State) : (completeErr e s).pend = none := rfl
@[simp] theorem completeErr_ilen (e : CmdError) (s : State) : (completeErr e s).ilen = s.ilen := rfl
@[simp] theorem completeErr_olen (e : CmdError) (s : State) : (completeErr e s).olen = s.olen := rfl
@[simp] theorem completeErr_ibuf (e : CmdError) (s : State) : (completeErr e s).ibuf = s.ibuf := rfl
@[simp] theorem completeErr_obuf (e : CmdError) (s : State) : (completeErr e s).obuf = s.obuf := rfl
@[simp] theorem completeErr_dstH (e : CmdError) (s : State) : (completeErr e s).dstH = s.dstH := rfl
@[simp] theorem completeErr_dstL (e : CmdError) (s : State) : (completeErr e s).dstL = s.dstL := rfl
@[simp] theorem completeErr_srcH (e : CmdError) (s : State) : (completeErr e s).srcH = s.srcH := rfl
@[simp] theorem completeErr_srcL (e : CmdError) (s : State) : (completeErr e s).srcL = s.srcL := rfl
@[simp] theorem completeErr_etype (e : CmdError) (s : State) : (completeErr e s).etype = s.etype := rfl
@[simp] theorem completeErr_vcount (e : CmdError) (s : State) : (completeErr e s).vcount = s.vcount := rfl
@[simp] theorem completeErr_tag (e : CmdError) (s : State) : (completeErr e s).tag = s.tag := rfl
@[simp] theorem completeErr_vlan (e : CmdError) (s : State) : (completeErr e s).vlan = s.vlan := rfl
@[simp] theorem completeErr_params (e : CmdError) (s : State) : (completeErr e s).params = s.params := rfl
@[simp] theorem completeErr_issues (e : CmdError) (s : State) : (completeErr e s).issues = s.issues := rfl
@[simp] theorem completeErr_program (e : CmdError) (s : State) : (completeErr e s).program = s.program := rfl
@[simp] theorem completeErr_reads (e : CmdError) (s : State) : (completeErr e s).reads = s.reads := rfl
@[simp] theorem completeErr_turns (e : CmdError) (s : State) : (completeErr e s).turns = s.turns := rfl

@[simp] theorem completeOk_status (s : State) : (completeOk s).status = Status.succeeded := rfl
@[simp] theorem completeOk_pend (s : State) : (completeOk s).pend = none := rfl
@[simp] theorem completeOk_ilen (s : State) : (completeOk s).ilen = s.ilen := rfl
@[simp] theorem completeOk_olen (s : State) : (completeOk s).olen = s.olen := rfl
@[simp] theorem completeOk_ibuf (s : State) : (completeOk s).ibuf = s.ibuf := rfl
@[simp] theorem completeOk_obuf (s : State) : (completeOk s).obuf = s.obuf := rfl
@[simp] theorem completeOk_dstH (s : State) : (completeOk s).dstH = s.dstH := rfl
@[simp] theorem completeOk_dstL (s : State) : (completeOk s).dstL = s.dstL := rfl
@[simp] theorem completeOk_srcH (s : State) : (completeOk s).srcH = s.srcH := rfl
@[simp] theorem completeOk_srcL (s : State) : (completeOk s).srcL = s.srcL := rfl
@[simp] theorem completeOk_etype (s : State) : (completeOk s).etype = s.etype := rfl
@[simp] theorem completeOk_vcount (s : State) : (completeOk s).vcount = s.vcount := rfl
@[simp] theorem completeOk_tag (s : State) : (completeOk s).tag = s.tag := rfl
@[simp] theorem completeOk_vlan (s : State) : (completeOk s).vlan = s.vlan := rfl
@[simp] theorem completeOk_params (s : State) : (completeOk s).params = s.params := rfl
@[simp] theorem completeOk_issues (s : State) : (completeOk s).issues = s.issues := rfl
@[simp] theorem completeOk_program (s : State) : (completeOk s).program = s.program := rfl
@[simp] theorem completeOk_reads (s : State) : (completeOk s).reads = s.reads := rfl
@[simp] theorem completeOk_turns (s : State) : (completeOk s).turns = s.turns := rfl

@[simp] theorem writeOutput_status (r : Bytes) (s : State) : (writeOutput r s).status = s.status := rfl
@[simp] theorem writeOutput_pend (r : Bytes) (s : State) : (writeOutput r s).pend = s.pend := rfl
@[simp] theorem writeOutput_ilen (r : Bytes) (s : State) : (writeOutput r s).ilen = s.ilen := rfl
@[simp] theorem writeOutput_olen (r : Bytes) (s : State) : (writeOutput r s).olen = BitVec.ofNat 17 r.length := rfl
@[simp] theorem writeOutput_ibuf (r : Bytes) (s : State) : (writeOutput r s).ibuf = s.ibuf := rfl
@[simp] theorem writeOutput_obuf (r : Bytes) (s : State) : (writeOutput r s).obuf = Memory.ofList 0 r := rfl
@[simp] theorem writeOutput_dstH (r : Bytes) (s : State) : (writeOutput r s).dstH = s.dstH := rfl
@[simp] theorem writeOutput_dstL (r : Bytes) (s : State) : (writeOutput r s).dstL = s.dstL := rfl
@[simp] theorem writeOutput_srcH (r : Bytes) (s : State) : (writeOutput r s).srcH = s.srcH := rfl
@[simp] theorem writeOutput_srcL (r : Bytes) (s : State) : (writeOutput r s).srcL = s.srcL := rfl
@[simp] theorem writeOutput_etype (r : Bytes) (s : State) : (writeOutput r s).etype = s.etype := rfl
@[simp] theorem writeOutput_vcount (r : Bytes) (s : State) : (writeOutput r s).vcount = s.vcount := rfl
@[simp] theorem writeOutput_tag (r : Bytes) (s : State) : (writeOutput r s).tag = s.tag := rfl
@[simp] theorem writeOutput_vlan (r : Bytes) (s : State) : (writeOutput r s).vlan = s.vlan := rfl
@[simp] theorem writeOutput_params (r : Bytes) (s : State) : (writeOutput r s).params = s.params := rfl
@[simp] theorem writeOutput_issues (r : Bytes) (s : State) : (writeOutput r s).issues = s.issues := rfl
@[simp] theorem writeOutput_program (r : Bytes) (s : State) : (writeOutput r s).program = s.program := rfl
@[simp] theorem writeOutput_reads (r : Bytes) (s : State) : (writeOutput r s).reads = s.reads := rfl
@[simp] theorem writeOutput_turns (r : Bytes) (s : State) : (writeOutput r s).turns = s.turns := rfl

@[simp] theorem writeTag_status (t : VlanTag) (s : State) : (writeTag t s).status = s.status := rfl
@[simp] theorem writeTag_pend (t : VlanTag) (s : State) : (writeTag t s).pend = s.pend := rfl
@[simp] theorem writeTag_ilen (t : VlanTag) (s : State) : (writeTag t s).ilen = s.ilen := rfl
@[simp] theorem writeTag_olen (t : VlanTag) (s : State) : (writeTag t s).olen = s.olen := rfl
@[simp] theorem writeTag_ibuf (t : VlanTag) (s : State) : (writeTag t s).ibuf = s.ibuf := rfl
@[simp] theorem writeTag_obuf (t : VlanTag) (s : State) : (writeTag t s).obuf = s.obuf := rfl
@[simp] theorem writeTag_dstH (t : VlanTag) (s : State) : (writeTag t s).dstH = s.dstH := rfl
@[simp] theorem writeTag_dstL (t : VlanTag) (s : State) : (writeTag t s).dstL = s.dstL := rfl
@[simp] theorem writeTag_srcH (t : VlanTag) (s : State) : (writeTag t s).srcH = s.srcH := rfl
@[simp] theorem writeTag_srcL (t : VlanTag) (s : State) : (writeTag t s).srcL = s.srcL := rfl
@[simp] theorem writeTag_etype (t : VlanTag) (s : State) : (writeTag t s).etype = s.etype := rfl
@[simp] theorem writeTag_vcount (t : VlanTag) (s : State) : (writeTag t s).vcount = s.vcount := rfl
@[simp] theorem writeTag_tag (t : VlanTag) (s : State) : (writeTag t s).tag = some t := rfl
@[simp] theorem writeTag_vlan (t : VlanTag) (s : State) : (writeTag t s).vlan = s.vlan := rfl
@[simp] theorem writeTag_params (t : VlanTag) (s : State) : (writeTag t s).params = s.params := rfl
@[simp] theorem writeTag_issues (t : VlanTag) (s : State) : (writeTag t s).issues = s.issues := rfl
@[simp] theorem writeTag_program (t : VlanTag) (s : State) : (writeTag t s).program = s.program := rfl
@[simp] theorem writeTag_reads (t : VlanTag) (s : State) : (writeTag t s).reads = s.reads := rfl
@[simp] theorem writeTag_turns (t : VlanTag) (s : State) : (writeTag t s).turns = s.turns := rfl

@[simp] theorem writeFrame_status (f : Frame) (s : State) : (writeFrame f s).status = s.status := rfl
@[simp] theorem writeFrame_pend (f : Frame) (s : State) : (writeFrame f s).pend = s.pend := rfl
@[simp] theorem writeFrame_ilen (f : Frame) (s : State) : (writeFrame f s).ilen = s.ilen := rfl
@[simp] theorem writeFrame_olen (f : Frame) (s : State) : (writeFrame f s).olen = BitVec.ofNat 17 f.payload.length := rfl
@[simp] theorem writeFrame_ibuf (f : Frame) (s : State) : (writeFrame f s).ibuf = s.ibuf := rfl
@[simp] theorem writeFrame_obuf (f : Frame) (s : State) : (writeFrame f s).obuf = Memory.ofList 0 f.payload := rfl
@[simp] theorem writeFrame_dstH (f : Frame) (s : State) : (writeFrame f s).dstH = some (f.dst.extractLsb' 32 16) := rfl
@[simp] theorem writeFrame_dstL (f : Frame) (s : State) : (writeFrame f s).dstL = some (f.dst.extractLsb' 0 32) := rfl
@[simp] theorem writeFrame_srcH (f : Frame) (s : State) : (writeFrame f s).srcH = some (f.src.extractLsb' 32 16) := rfl
@[simp] theorem writeFrame_srcL (f : Frame) (s : State) : (writeFrame f s).srcL = some (f.src.extractLsb' 0 32) := rfl
@[simp] theorem writeFrame_etype (f : Frame) (s : State) : (writeFrame f s).etype = some f.etype := rfl
@[simp] theorem writeFrame_vcount (f : Frame) (s : State) : (writeFrame f s).vcount = BitVec.ofNat 16 f.vlan.length := rfl
@[simp] theorem writeFrame_tag (f : Frame) (s : State) : (writeFrame f s).tag = s.tag := rfl
@[simp] theorem writeFrame_vlan (f : Frame) (s : State) : (writeFrame f s).vlan = Memory.ofList 0 f.vlan := rfl
@[simp] theorem writeFrame_params (f : Frame) (s : State) : (writeFrame f s).params = s.params := rfl
@[simp] theorem writeFrame_issues (f : Frame) (s : State) : (writeFrame f s).issues = s.issues := rfl
@[simp] theorem writeFrame_program (f : Frame) (s : State) : (writeFrame f s).program = s.program := rfl
@[simp] theorem writeFrame_reads (f : Frame) (s : State) : (writeFrame f s).reads = s.reads := rfl
@[simp] theorem writeFrame_turns (f : Frame) (s : State) : (writeFrame f s).turns = s.turns := rfl

@[simp] theorem takeTurn_status (s : State) : (takeTurn s).status = s.status := rfl
@[simp] theorem takeTurn_pend (s : State) : (takeTurn s).pend = s.pend := rfl
@[simp] theorem takeTurn_ilen (s : State) : (takeTurn s).ilen = s.ilen := rfl
@[simp] theorem takeTurn_olen (s : State) : (takeTurn s).olen = s.olen := rfl
@[simp] theorem takeTurn_ibuf (s : State) : (takeTurn s).ibuf = s.ibuf := rfl
@[simp] theorem takeTurn_obuf (s : State) : (takeTurn s).obuf = s.obuf := rfl
@[simp] theorem takeTurn_dstH (s : State) : (takeTurn s).dstH = s.dstH := rfl
@[simp] theorem takeTurn_dstL (s : State) : (takeTurn s).dstL = s.dstL := rfl
@[simp] theorem takeTurn_srcH (s : State) : (takeTurn s).srcH = s.srcH := rfl
@[simp] theorem takeTurn_srcL (s : State) : (takeTurn s).srcL = s.srcL := rfl
@[simp] theorem takeTurn_etype (s : State) : (takeTurn s).etype = s.etype := rfl
@[simp] theorem takeTurn_vcount (s : State) : (takeTurn s).vcount = s.vcount := rfl
@[simp] theorem takeTurn_tag (s : State) : (takeTurn s).tag = s.tag := rfl
@[simp] theorem takeTurn_vlan (s : State) : (takeTurn s).vlan = s.vlan := rfl
@[simp] theorem takeTurn_params (s : State) : (takeTurn s).params = s.params := rfl
@[simp] theorem takeTurn_issues (s : State) : (takeTurn s).issues = s.issues := rfl
@[simp] theorem takeTurn_program (s : State) : (takeTurn s).program = s.program := rfl
@[simp] theorem takeTurn_reads (s : State) : (takeTurn s).reads = s.reads := rfl
@[simp] theorem takeTurn_turns (s : State) : (takeTurn s).turns = s.turns.tail := rfl

@[simp] theorem recordRead_status (a : BusAddr) (v : Word) (s : State) : (recordRead a v s).status = s.status := rfl
@[simp] theorem recordRead_pend (a : BusAddr) (v : Word) (s : State) : (recordRead a v s).pend = s.pend := rfl
@[simp] theorem recordRead_ilen (a : BusAddr) (v : Word) (s : State) : (recordRead a v s).ilen = s.ilen := rfl
@[simp] theorem recordRead_olen (a : BusAddr) (v : Word) (s : State) : (recordRead a v s).olen = s.olen := rfl
@[simp] theorem recordRead_ibuf (a : BusAddr) (v : Word) (s : State) : (recordRead a v s).ibuf = s.ibuf := rfl
@[simp] theorem recordRead_obuf (a : BusAddr) (v : Word) (s : State) : (recordRead a v s).obuf = s.obuf := rfl
@[simp] theorem recordRead_dstH (a : BusAddr) (v : Word) (s : State) : (recordRead a v s).dstH = s.dstH := rfl
@[simp] theorem recordRead_dstL (a : BusAddr) (v : Word) (s : State) : (recordRead a v s).dstL = s.dstL := rfl
@[simp] theorem recordRead_srcH (a : BusAddr) (v : Word) (s : State) : (recordRead a v s).srcH = s.srcH := rfl
@[simp] theorem recordRead_srcL (a : BusAddr) (v : Word) (s : State) : (recordRead a v s).srcL = s.srcL := rfl
@[simp] theorem recordRead_etype (a : BusAddr) (v : Word) (s : State) : (recordRead a v s).etype = s.etype := rfl
@[simp] theorem recordRead_vcount (a : BusAddr) (v : Word) (s : State) : (recordRead a v s).vcount = s.vcount := rfl
@[simp] theorem recordRead_tag (a : BusAddr) (v : Word) (s : State) : (recordRead a v s).tag = s.tag := rfl
@[simp] theorem recordRead_vlan (a : BusAddr) (v : Word) (s : State) : (recordRead a v s).vlan = s.vlan := rfl
@[simp] theorem recordRead_params (a : BusAddr) (v : Word) (s : State) : (recordRead a v s).params = s.params := rfl
@[simp] theorem recordRead_issues (a : BusAddr) (v : Word) (s : State) : (recordRead a v s).issues = s.issues := rfl
@[simp] theorem recordRead_program (a : BusAddr) (v : Word) (s : State) : (recordRead a v s).program = s.program := rfl
@[simp] theorem recordRead_reads (a : BusAddr) (v : Word) (s : State) : (recordRead a v s).reads = s.reads ++ [{ addr := a, value := v }] := rfl
@[simp] theorem recordRead_turns (a : BusAddr) (v : Word) (s : State) : (recordRead a v s).turns = s.turns := rfl

@[simp] theorem resetInput_status (s : State) : (resetInput s).status = { busy := false, ok := false, err := 0#3 } := rfl
@[simp] theorem resetInput_pend (s : State) : (resetInput s).pend = none := rfl
@[simp] theorem resetInput_ilen (s : State) : (resetInput s).ilen = 0#17 := rfl
@[simp] theorem resetInput_olen (s : State) : (resetInput s).olen = 0#17 := rfl
@[simp] theorem resetInput_ibuf (s : State) : (resetInput s).ibuf = [] := rfl
@[simp] theorem resetInput_obuf (s : State) : (resetInput s).obuf = [] := rfl
@[simp] theorem resetInput_dstH (s : State) : (resetInput s).dstH = none := rfl
@[simp] theorem resetInput_dstL (s : State) : (resetInput s).dstL = none := rfl
@[simp] theorem resetInput_srcH (s : State) : (resetInput s).srcH = none := rfl
@[simp] theorem resetInput_srcL (s : State) : (resetInput s).srcL = none := rfl
@[simp] theorem resetInput_etype (s : State) : (resetInput s).etype = none := rfl
@[simp] theorem resetInput_vcount (s : State) : (resetInput s).vcount = 0#16 := rfl
@[simp] theorem resetInput_tag (s : State) : (resetInput s).tag = none := rfl
@[simp] theorem resetInput_vlan (s : State) : (resetInput s).vlan = [] := rfl
@[simp] theorem resetInput_params (s : State) : (resetInput s).params = s.params := rfl
@[simp] theorem resetInput_issues (s : State) : (resetInput s).issues = s.issues := rfl
@[simp] theorem resetInput_program (s : State) : (resetInput s).program = s.program := rfl
@[simp] theorem resetInput_reads (s : State) : (resetInput s).reads = s.reads := rfl
@[simp] theorem resetInput_turns (s : State) : (resetInput s).turns = s.turns := rfl

end Sys2Proof.Machine
end

