-- ==== Sys2Proof/Laws/Bus.lean ====
section
/-! SUPPORT. Everything a bus access can do. -/

namespace Sys2Proof.Machine

/-- A read that answers a next state has only recorded a value (R57). -/
theorem busRead_next {w : Width} {a : BusAddr} {s t : State} (h : busRead w a s = .next t) :
    ∃ v, t = recordRead a v s := by
  unfold busRead at h
  split at h
  · cases h
  · split at h
    · cases h; exact ⟨_, rfl⟩
    · split at h
      · cases h; exact ⟨_, rfl⟩
      · cases h

/-- A legal read of a result location of the pending command is a free draw, whatever the location holds (R241). -/
theorem busRead_of_result {w : Width} {a : BusAddr} {s : State} (hl : legalAccess w a = true) (hb : s.status.busy = true)
    (hr : pendingMayWrite s (locate s.params a) = true) :
    busRead w a s = .next (recordRead a (freeRead s a (locate s.params a)) s) := by
  simp [busRead, hl, hb, hr]

/-- A legal read of any other location that holds a value returns it (R25, R241). -/
theorem busRead_of_value {w : Width} {a : BusAddr} {s : State} {v : Word} (hl : legalAccess w a = true)
    (hr : s.status.busy = false ∨ pendingMayWrite s (locate s.params a) = false)
    (hv : readLocation s (locate s.params a) = some v) : busRead w a s = .next (recordRead a v s) := by
  rcases hr with hr | hr <;> simp [busRead, hl, hr, hv]

/-- A legal read of any other location that holds no value faults (R25, R212). -/
theorem busRead_of_no_value {w : Width} {a : BusAddr} {s : State} (hl : legalAccess w a = true)
    (hr : s.status.busy = false ∨ pendingMayWrite s (locate s.params a) = false)
    (hv : readLocation s (locate s.params a) = none) : busRead w a s = .fault .unwrittenRead := by
  rcases hr with hr | hr <;> simp [busRead, hl, hr, hv]

/-- A legal write while idle is the write of the location at its address (R51). -/
theorem busWrite_of_idle {w : Width} {a : BusAddr} {d : Word} {s : State} (hl : legalAccess w a = true)
    (hb : s.status.busy = false) : busWrite w a d s = writeLocation (locate s.params a) d s := by
  simp [busWrite, hl, hb]

/-- A write that answers a next state was a legal access of an idle block (R51, R240). -/
theorem busWrite_next {w : Width} {a : BusAddr} {d : Word} {s t : State} (h : busWrite w a d s = .next t) :
    legalAccess w a = true ∧ s.status.busy = false ∧ writeLocation (locate s.params a) d s = .next t := by
  unfold busWrite at h
  split at h
  · cases h
  · rename_i hl
    split at h
    · cases h
    · rename_i hb
      exact ⟨by simpa using hl, by simpa using hb, h⟩

/-- Everything a write of a location can do to the state. -/
theorem writeLocation_next {l : Location} {d : Word} {s t : State} (h : writeLocation l d s = .next t) :
    (l = .cmd ∧ t = issue d s) ∨
    (l = .ilen ∧ (d.extractLsb' 0 17).toNat ≤ s.params.bufBytes ∧ t = { s with ilen := d.extractLsb' 0 17 }) ∨
    (l = .dstH ∧ t = { s with dstH := some (d.extractLsb' 0 16) }) ∨
    (l = .dstL ∧ t = { s with dstL := some d }) ∨
    (l = .srcH ∧ t = { s with srcH := some (d.extractLsb' 0 16) }) ∨
    (l = .srcL ∧ t = { s with srcL := some d }) ∨
    (l = .etype ∧ t = { s with etype := some (d.extractLsb' 0 16) }) ∨
    (l = .vcount ∧ (d.extractLsb' 0 16).toNat ≤ s.params.maxTags ∧ t = { s with vcount := d.extractLsb' 0 16 }) ∨
    (l = .tag ∧ t = { s with tag := some (vtagToTag d) }) ∨
    (∃ i, l = .vlan i ∧ t = { s with vlan := Memory.write s.vlan i (vtagToTag d) }) ∨
    (∃ i, l = .ibuf i ∧ t = { s with ibuf := Memory.write s.ibuf i (d.extractLsb' 0 8) }) ∨
    ((l = .status ∨ l = .olen ∨ (∃ i, l = .obuf i) ∨ l = .unmapped) ∧ t = s) := by
  cases l with
  | ilen =>
    simp only [writeLocation] at h
    split at h
    · cases h; simp_all
    · cases h
  | vcount =>
    simp only [writeLocation] at h
    split at h
    · cases h; simp_all
    · cases h
  | _ => simp only [writeLocation] at h; cases h; simp

/-- A register of the array at its address (R41, R50). -/
theorem locate_vlan {p : Params} {i : Nat} (h : i < p.maxTags) (hi : i < 16384) :
    locate p (BitVec.ofNat 18 (0x10000 + 4 * i)) = .vlan i := by
  have ha : (BitVec.ofNat 18 (0x10000 + 4 * i)).toNat = 0x10000 + 4 * i := by
    rw [BitVec.toNat_ofNat]; omega
  have hd : (0x10000 + 4 * i - 0x10000) / 4 = i := by omega
  simp only [locate, windowOf, ha, hd]
  simp [show ¬ (0x10000 + 4 * i < 0x100) by omega, show ¬ (0x10000 + 4 * i < 0x10000) by omega,
    show 0x10000 + 4 * i < 0x20000 by omega, h]

/-- A byte of IBUF at its address (R35, R50). -/
theorem locate_ibuf {p : Params} {i : Nat} (h : i < p.bufBytes) (hi : i < 65536) :
    locate p (BitVec.ofNat 18 (0x20000 + i)) = .ibuf i := by
  have ha : (BitVec.ofNat 18 (0x20000 + i)).toNat = 0x20000 + i := by
    rw [BitVec.toNat_ofNat]; omega
  have hd : 0x20000 + i - 0x20000 = i := by omega
  simp only [locate, windowOf, ha, hd]
  simp [show ¬ (0x20000 + i < 0x100) by omega, show ¬ (0x20000 + i < 0x10000) by omega,
    show ¬ (0x20000 + i < 0x20000) by omega, show 0x20000 + i < 0x30000 by omega, h]

/-- A byte of OBUF at its address (R36, R50). -/
theorem locate_obuf {p : Params} {i : Nat} (h : i < p.bufBytes) (hi : i < 65536) :
    locate p (BitVec.ofNat 18 (0x30000 + i)) = .obuf i := by
  have ha : (BitVec.ofNat 18 (0x30000 + i)).toNat = 0x30000 + i := by
    rw [BitVec.toNat_ofNat]; omega
  have hd : 0x30000 + i - 0x30000 = i := by omega
  simp only [locate, windowOf, ha, hd]
  simp [show ¬ (0x30000 + i < 0x100) by omega, show ¬ (0x30000 + i < 0x10000) by omega,
    show ¬ (0x30000 + i < 0x20000) by omega, show ¬ (0x30000 + i < 0x30000) by omega, h]

end Sys2Proof.Machine
end

