-- ==== Sys2Proof/Laws/Codec.lean ====
section
/-! SUPPORT. One lemma per core function: what it answers, case by case. -/

namespace Sys2Proof.Machine

theorem vlanEncode_eq_ok_iff (t : VlanTag) (r : Bytes) :
    vlanEncode t = .ok r ↔ t.vid ≠ reservedVid ∧ r = be16 (tciPack t) := by
  unfold vlanEncode
  split <;> simp_all [eq_comm]

theorem vlanEncode_eq_err_iff (t : VlanTag) (e : ErrKind) :
    vlanEncode t = .err e ↔ t.vid = reservedVid ∧ e = .invalidVlanId := by
  unfold vlanEncode
  split <;> simp_all [eq_comm]

/-- On two bytes only the ID can fail (R102). -/
theorem vlanDecode_two (b0 b1 : Byte) :
    vlanDecode [b0, b1] =
      if (tciUnpack (b0 ++ b1)).vid = reservedVid then .err .invalidVlanId else .ok (tciUnpack (b0 ++ b1)) := by
  simp [vlanDecode, rd16be]

theorem vlanDecode_length {b : Bytes} (h : b.length ≠ 2) : vlanDecode b = .err .truncatedInput := by
  simp [vlanDecode, h]

@[simp] theorem encodeChain_nil : encodeChain [] = .ok [] := rfl

/-- The chain is encoded exactly when no ID is reserved, marker and body of each tag in order (R120, R123). -/
theorem encodeChain_eq_ok_iff (ts : List VlanTag) (r : Bytes) :
    encodeChain ts = .ok r ↔
      (∀ t ∈ ts, t.vid ≠ reservedVid) ∧ r = ts.flatMap (fun t => be16 vlanMarker ++ be16 (tciPack t)) := by
  induction ts generalizing r with
  | nil => simp [encodeChain, eq_comm]
  | cons t ts ih =>
    by_cases hv : t.vid = reservedVid
    · have : vlanEncode t = .err .invalidVlanId := (vlanEncode_eq_err_iff _ _).2 ⟨hv, rfl⟩
      simp [encodeChain, this, hv]
    · have he : vlanEncode t = .ok (be16 (tciPack t)) := (vlanEncode_eq_ok_iff _ _).2 ⟨hv, rfl⟩
      simp only [encodeChain, he]
      cases hc : encodeChain ts with
      | err e =>
        have hn : ¬ ∀ t ∈ ts, t.vid ≠ reservedVid := by
          intro hall
          rw [(ih _).2 ⟨hall, rfl⟩] at hc
          cases hc
        simp only [List.forall_mem_cons, hn, and_false, false_and, reduceCtorEq]
      | ok rest =>
        obtain ⟨hall, rfl⟩ := (ih rest).1 hc
        simp only [Result.ok.injEq, List.forall_mem_cons, hv, ne_eq, not_false_eq_true, true_and, List.flatMap_cons]
        exact ⟨fun h => ⟨hall, h.symm⟩, fun h => h.2.symm⟩

/-- The only error of the chain is InvalidVlanId (R123). -/
theorem encodeChain_eq_err_iff (ts : List VlanTag) (e : ErrKind) :
    encodeChain ts = .err e ↔ (∃ t ∈ ts, t.vid = reservedVid) ∧ e = .invalidVlanId := by
  induction ts with
  | nil => simp [encodeChain]
  | cons t ts ih =>
    by_cases hv : t.vid = reservedVid
    · have : vlanEncode t = .err .invalidVlanId := (vlanEncode_eq_err_iff _ _).2 ⟨hv, rfl⟩
      simp [encodeChain, this, hv, eq_comm]
    · have he : vlanEncode t = .ok (be16 (tciPack t)) := (vlanEncode_eq_ok_iff _ _).2 ⟨hv, rfl⟩
      simp only [encodeChain, he, List.exists_mem_cons_iff, hv, false_or, ← ih]
      cases encodeChain ts <;> simp

/-- The loop ends at a candidate that is not the marker (R145). -/
theorem readChain_end {cand : Half} (h : cand ≠ vlanMarker) (rest : Bytes) :
    readChain cand rest = .ok ([], cand, rest) := by
  unfold readChain
  simp [h]

/-- A chain step with fewer than 4 bytes left (R144). -/
theorem readChain_short {rest : Bytes} (h : rest.length < 4) : readChain vlanMarker rest = .err .truncatedInput := by
  unfold readChain
  simp only [if_true]
  split
  · simp at h; omega
  · rfl

/-- A chain step with 4 bytes left (R145). -/
theorem readChain_step (b0 b1 e0 e1 : Byte) (rest : Bytes) :
    readChain vlanMarker (b0 :: b1 :: e0 :: e1 :: rest) =
      match vlanDecode [b0, b1] with
      | .err e => .err e
      | .ok t =>
        match readChain (e0 ++ e1) rest with
        | .err e => .err e
        | .ok (ts, etype, payload) => .ok (t :: ts, etype, payload) := by
  rw [readChain]
  exact if_pos rfl

theorem crcShifts_succ (n : Nat) (c : Word) : crcShifts (n + 1) c = crcShifts n (crcShift c) := rfl

theorem crc32_append (a b : Bytes) :
    crc32 (a ++ b) = b.foldl crcByte (a.foldl crcByte 0xFFFFFFFF#32) ^^^ 0xFFFFFFFF#32 := by
  simp [crc32, List.foldl_append]

end Sys2Proof.Machine
end

