-- ==== Sys2Proof/Laws/Memory.lean ====
section
/-! SUPPORT. What the operations on indexed storage do, and that each keeps the canonical form. -/

namespace Sys2Proof.Machine

variable {α : Type}

theorem Memory.read_write_same (m : List (Nat × α)) (i : Nat) (v : α) :
    Memory.read (Memory.write m i v) i = some v := by
  induction m with
  | nil => simp [Memory.write, Memory.read]
  | cons c rest ih =>
    obtain ⟨k, u⟩ := c
    simp only [Memory.write]
    split
    · simp [Memory.read]
    · split
      · simp [Memory.read]
      · have hk : k ≠ i := by omega
        simp [Memory.read, hk, ih]

theorem Memory.read_write_other (m : List (Nat × α)) {i j : Nat} (v : α) (h : j ≠ i) :
    Memory.read (Memory.write m i v) j = Memory.read m j := by
  have h' : i ≠ j := fun e => h e.symm
  induction m with
  | nil => simp [Memory.write, Memory.read, h']
  | cons c rest ih =>
    obtain ⟨k, u⟩ := c
    simp only [Memory.write]
    split
    · simp [Memory.read, h']
    · split
      · subst_vars; simp [Memory.read, h']
      · by_cases hk : k = j <;> simp [Memory.read, hk, ih]

theorem Memory.mem_write {m : List (Nat × α)} {i : Nat} {v : α} {c : Nat × α}
    (h : c ∈ Memory.write m i v) : c = (i, v) ∨ c ∈ m := by
  induction m with
  | nil => simpa [Memory.write] using h
  | cons d rest ih =>
    obtain ⟨k, u⟩ := d
    simp only [Memory.write] at h
    split at h
    · simpa using h
    · split at h
      · rcases List.mem_cons.1 h with h | h
        · exact .inl h
        · exact .inr (List.mem_cons_of_mem _ h)
      · rcases List.mem_cons.1 h with h | h
        · exact .inr (by simp [h])
        · rcases ih h with h | h
          · exact .inl h
          · exact .inr (List.mem_cons_of_mem _ h)

/-- A write keeps the canonical form. -/
theorem Memory.write_wf {m : List (Nat × α)} (i : Nat) (v : α) (h : Memory.wf m) :
    Memory.wf (Memory.write m i v) := by
  induction m with
  | nil => simp [Memory.write]
  | cons d rest ih =>
    obtain ⟨k, u⟩ := d
    have hrest := (List.pairwise_cons.1 h).2
    have hk := (List.pairwise_cons.1 h).1
    simp only [Memory.write]
    split
    · rename_i hlt
      refine List.pairwise_cons.2 ⟨?_, h⟩
      intro c hc
      rcases List.mem_cons.1 hc with rfl | hc
      · exact hlt
      · exact lt_trans hlt (hk c hc)
    · split
      · subst_vars; exact List.pairwise_cons.2 ⟨hk, hrest⟩
      · refine List.pairwise_cons.2 ⟨?_, ih hrest⟩
        intro c hc
        rcases Memory.mem_write hc with rfl | hc
        · show k < i; omega
        · exact hk c hc

theorem Memory.le_of_mem_ofList {i : Nat} {xs : List α} {c : Nat × α} (h : c ∈ Memory.ofList i xs) :
    i ≤ c.1 ∧ c.1 < i + xs.length := by
  induction xs generalizing i with
  | nil => simp [Memory.ofList] at h
  | cons x xs ih =>
    rcases List.mem_cons.1 h with rfl | h
    · simp
    · have := ih h; simp only [List.length_cons]; omega

/-- Storing a list from an index on gives the canonical form. -/
theorem Memory.ofList_wf (i : Nat) (xs : List α) : Memory.wf (Memory.ofList i xs) := by
  induction xs generalizing i with
  | nil => simp [Memory.ofList]
  | cons x xs ih =>
    exact List.pairwise_cons.2 ⟨fun c hc => (Memory.le_of_mem_ofList hc).1, ih (i + 1)⟩

theorem Memory.read_ofList_add (i k : Nat) (xs : List α) :
    Memory.read (Memory.ofList i xs) (i + k) = xs[k]? := by
  induction xs generalizing i k with
  | nil => simp [Memory.ofList, Memory.read]
  | cons x xs ih =>
    cases k with
    | zero => simp [Memory.ofList, Memory.read]
    | succ k =>
      have h := ih (i + 1) k
      rw [show i + 1 + k = i + (k + 1) by omega] at h
      simpa [Memory.ofList, Memory.read] using h

/-- R36: index `k` holds the k-th element, and no value from the length on. -/
theorem Memory.read_ofList (k : Nat) (xs : List α) : Memory.read (Memory.ofList 0 xs) k = xs[k]? := by
  simpa using Memory.read_ofList_add 0 k xs

/-- A run is read exactly when every index of it holds its element. -/
theorem Memory.readRun_eq_some_iff (m : List (Nat × α)) (i n : Nat) (xs : List α) :
    Memory.readRun m i n = some xs ↔ xs.length = n ∧ ∀ k, k < xs.length → Memory.read m (i + k) = xs[k]? := by
  induction n generalizing i xs with
  | zero =>
    constructor
    · intro h; cases h; simp
    · rintro ⟨h, -⟩; rw [List.length_eq_zero_iff.1 h]; rfl
  | succ n ih =>
    constructor
    · intro h
      simp only [Memory.readRun] at h
      split at h
      · rename_i v vs hv hvs
        cases h
        obtain ⟨hl, hr⟩ := (ih (i + 1) vs).1 hvs
        refine ⟨by simp [hl], ?_⟩
        intro k hk
        cases k with
        | zero => simpa using hv
        | succ k =>
          have := hr k (by simpa using hk)
          rw [show i + 1 + k = i + (k + 1) by omega] at this
          simpa using this
      · cases h
    · rintro ⟨hl, hr⟩
      cases xs with
      | nil => simp at hl
      | cons v vs =>
        have hv : Memory.read m i = some v := by simpa using hr 0 (by simp)
        have hvs : Memory.readRun m (i + 1) n = some vs := by
          refine (ih (i + 1) vs).2 ⟨by simpa using hl, ?_⟩
          intro k hk
          have := hr (k + 1) (by simpa using hk)
          rw [show i + (k + 1) = i + 1 + k by omega] at this
          simpa using this
        simp [Memory.readRun, hv, hvs]

/-- A run is not read exactly when some index of it holds no value. -/
theorem Memory.readRun_eq_none_iff (m : List (Nat × α)) (i n : Nat) :
    Memory.readRun m i n = none ↔ ∃ k, k < n ∧ Memory.read m (i + k) = none := by
  induction n generalizing i with
  | zero => simp [Memory.readRun]
  | succ n ih =>
    simp only [Memory.readRun]
    constructor
    · intro h
      cases hv : Memory.read m i with
      | none => exact ⟨0, by omega, by simpa using hv⟩
      | some v =>
        cases hvs : Memory.readRun m (i + 1) n with
        | none =>
          obtain ⟨k, hk, hn⟩ := (ih (i + 1)).1 hvs
          exact ⟨k + 1, by omega, by rw [show i + (k + 1) = i + 1 + k by omega]; exact hn⟩
        | some vs => simp [hv, hvs] at h
    · rintro ⟨k, hk, hn⟩
      cases k with
      | zero => simp [show Memory.read m i = none by simpa using hn]
      | succ k =>
        have : Memory.readRun m (i + 1) n = none :=
          (ih (i + 1)).2 ⟨k, by omega, by rw [show i + 1 + k = i + (k + 1) by omega]; exact hn⟩
        cases hv : Memory.read m i <;> simp [this]

end Sys2Proof.Machine
end

