-- ==== Sys2Proof/Laws/Operands.lean ====
section
/-! SUPPORT. What each operand form reads, and when it is not there. -/

namespace Sys2Proof.Machine

open Sys2Proof.Safety

theorem inputBytes_eq_some_iff (s : State) (b : Bytes) : inputBytes s = some b ↔ HoldsInput s b := by
  simp [inputBytes, HoldsInput, Memory.readRun_eq_some_iff]

theorem inputBytes_eq_none_iff (s : State) : inputBytes s = none ↔ LacksInput s := by
  simp [inputBytes, LacksInput, Memory.readRun_eq_none_iff]

theorem chainOperand_eq_some_iff (s : State) (ts : List VlanTag) : chainOperand s = some ts ↔ HoldsChain s ts := by
  simp [chainOperand, HoldsChain, Memory.readRun_eq_some_iff]

theorem chainOperand_eq_none_iff (s : State) :
    chainOperand s = none ↔ ∃ j, j < s.vcount.toNat ∧ Memory.read s.vlan j = none := by
  simp [chainOperand, Memory.readRun_eq_none_iff]

/-- A 48-bit address is its two register fields joined (R37). -/
theorem mac_join (m : MacAddr) : m.extractLsb' 32 16 ++ m.extractLsb' 0 32 = m := by
  ext i hi
  simp only [BitVec.getElem_append, BitVec.getElem_extractLsb']
  split
  · simp [hi]
  · rename_i h
    rw [show 32 + (i - 32) = i by omega]
    simp [hi]

theorem mac_high (h : Half) (l : Word) : (h ++ l : MacAddr).extractLsb' 32 16 = h := by
  ext i hi
  rw [BitVec.getElem_extractLsb']
  refine BitVec.getLsbD_append.trans ?_
  simp [BitVec.getLsbD_eq_getElem hi]

theorem mac_low (h : Half) (l : Word) : (h ++ l : MacAddr).extractLsb' 0 32 = l := by
  ext i hi
  rw [BitVec.getElem_extractLsb']
  refine BitVec.getLsbD_append.trans ?_
  simp [hi]

theorem dstOperand_eq_some_iff (s : State) (m : MacAddr) :
    dstOperand s = some m ↔ s.dstH = some (m.extractLsb' 32 16) ∧ s.dstL = some (m.extractLsb' 0 32) := by
  unfold dstOperand
  constructor
  · intro h
    split at h
    · rename_i hh hl
      cases h
      rw [hh, hl, mac_high, mac_low]
      exact ⟨rfl, rfl⟩
    · cases h
  · rintro ⟨hh, hl⟩
    simp only [hh, hl, mac_join]

theorem srcOperand_eq_some_iff (s : State) (m : MacAddr) :
    srcOperand s = some m ↔ s.srcH = some (m.extractLsb' 32 16) ∧ s.srcL = some (m.extractLsb' 0 32) := by
  unfold srcOperand
  constructor
  · intro h
    split at h
    · rename_i hh hl
      cases h
      rw [hh, hl, mac_high, mac_low]
      exact ⟨rfl, rfl⟩
    · cases h
  · rintro ⟨hh, hl⟩
    simp only [hh, hl, mac_join]

theorem dstOperand_eq_none_iff (s : State) : dstOperand s = none ↔ s.dstH = none ∨ s.dstL = none := by
  unfold dstOperand
  cases s.dstH <;> cases s.dstL <;> simp

theorem srcOperand_eq_none_iff (s : State) : srcOperand s = none ↔ s.srcH = none ∨ s.srcL = none := by
  unfold srcOperand
  cases s.srcH <;> cases s.srcL <;> simp

theorem frameOperand_eq_some_iff (s : State) (f : Frame) : frameOperand s = some f ↔ HoldsFrame s f := by
  unfold frameOperand HoldsFrame
  constructor
  · intro h
    split at h
    · rename_i hd hs hv he hp
      cases h
      obtain ⟨h1, h2⟩ := (dstOperand_eq_some_iff _ _).1 hd
      obtain ⟨h3, h4⟩ := (srcOperand_eq_some_iff _ _).1 hs
      exact ⟨h1, h2, h3, h4, he, (chainOperand_eq_some_iff _ _).1 hv, (inputBytes_eq_some_iff _ _).1 hp⟩
    · cases h
  · rintro ⟨h1, h2, h3, h4, he, hv, hp⟩
    simp only [(dstOperand_eq_some_iff _ _).2 ⟨h1, h2⟩, (srcOperand_eq_some_iff _ _).2 ⟨h3, h4⟩, he,
      (chainOperand_eq_some_iff _ _).2 hv, (inputBytes_eq_some_iff _ _).2 hp]

theorem frameOperand_eq_none_iff (s : State) : frameOperand s = none ↔ LacksFrame s := by
  have hd := dstOperand_eq_none_iff s
  have hs := srcOperand_eq_none_iff s
  have hv := chainOperand_eq_none_iff s
  have hp := inputBytes_eq_none_iff s
  unfold LacksFrame
  rw [← hv, ← hp, ← or_assoc, ← hd, ← or_assoc (a := s.srcH = none), ← hs]
  unfold frameOperand
  cases dstOperand s <;> cases srcOperand s <;> cases chainOperand s <;> cases s.etype <;> cases inputBytes s <;> simp

end Sys2Proof.Machine
end

