-- ==== Sys2Proof/Laws/Ops.lean ====
section
/-! SUPPORT. Everything the shared operations of the commands can do. -/

namespace Sys2Proof.Machine

open Sys2Proof.Safety

@[simp] theorem complete_ok {α : Type} (writes : α → State → State) (v : α) (s : State) :
    complete writes (.ok v) s = completeOk (writes v s) := rfl

@[simp] theorem complete_err {α : Type} (writes : α → State → State) (e : ErrKind) (s : State) :
    complete writes (.err e) s = completeErr (.core e) s := rfl

/-- An encode command answers a next state exactly when the output fits and every operand holds a value. -/
theorem encodeCommand_next_iff (trailer : Nat) (core : Frame → Result Bytes) (s t : State) :
    encodeCommand trailer core s = .next t ↔
      encodedLength trailer s ≤ s.params.bufBytes ∧
        ∃ f, HoldsFrame s f ∧ t = complete writeOutput (core f) s := by
  unfold encodeCommand
  by_cases hl : encodedLength trailer s > s.params.bufBytes
  · simp only [hl, if_true]
    constructor
    · intro h; cases h
    · rintro ⟨h, -⟩; omega
  · simp only [hl, if_false]
    cases hf : frameOperand s with
    | none =>
      constructor
      · intro h; cases h
      · rintro ⟨-, f, h, -⟩
        rw [(frameOperand_eq_some_iff s f).2 h] at hf
        cases hf
    | some f =>
      constructor
      · intro h; cases h
        exact ⟨by omega, f, (frameOperand_eq_some_iff s f).1 hf, rfl⟩
      · rintro ⟨-, g, hg, rfl⟩
        rw [(frameOperand_eq_some_iff s g).2 hg] at hf
        cases hf; rfl

/-- A decode command answers a next state exactly when every input byte holds a value. -/
theorem decodeCommand_next_iff (core : Bytes → Result Frame) (s t : State) :
    decodeCommand core s = .next t ↔ ∃ b, HoldsInput s b ∧ t = complete writeFrame (core b) s := by
  unfold decodeCommand
  cases hb : inputBytes s with
  | none =>
    constructor
    · intro h; cases h
    · rintro ⟨b, h, -⟩
      rw [(inputBytes_eq_some_iff s b).2 h] at hb
      cases hb
  | some b =>
    constructor
    · intro h; cases h
      exact ⟨b, (inputBytes_eq_some_iff s b).1 hb, rfl⟩
    · rintro ⟨c, hc, rfl⟩
      rw [(inputBytes_eq_some_iff s c).2 hc] at hb
      cases hb; rfl

theorem execVlanEnc_next_iff (s t : State) :
    execVlanEnc s = .next t ↔ ∃ g, s.tag = some g ∧ t = complete writeOutput (vlanEncode g) s := by
  unfold execVlanEnc
  cases s.tag <;> simp [eq_comm]

theorem execVlanDec_next_iff (s t : State) :
    execVlanDec s = .next t ↔ ∃ b, HoldsInput s b ∧ t = complete writeTag (vlanDecode b) s := by
  unfold execVlanDec
  constructor
  · intro h
    split at h
    · cases h
    · rename_i b hb
      cases h
      exact ⟨b, (inputBytes_eq_some_iff s b).1 hb, rfl⟩
  · rintro ⟨b, hb, rfl⟩
    rw [(inputBytes_eq_some_iff s b).2 hb]

/-- Everything a command can do: it completes with an output, a tag or a frame. -/
theorem exec_next_cases {i : Instr} {s t : State} (h : exec i s = .next t) :
    (∃ r, t = complete writeOutput r s) ∨ (∃ r, t = complete writeTag r s) ∨ (∃ r, t = complete writeFrame r s) := by
  cases i with
  | vlanEnc =>
    obtain ⟨g, -, h⟩ := (execVlanEnc_next_iff s t).1 h
    exact .inl ⟨_, h⟩
  | vlanDec =>
    obtain ⟨b, -, h⟩ := (execVlanDec_next_iff s t).1 h
    exact .inr (.inl ⟨_, h⟩)
  | frmEnc =>
    obtain ⟨-, f, -, h⟩ := (encodeCommand_next_iff _ _ s t).1 h
    exact .inl ⟨_, h⟩
  | frmDec =>
    obtain ⟨b, -, h⟩ := (decodeCommand_next_iff _ s t).1 h
    exact .inr (.inr ⟨_, h⟩)
  | frmEncFcs =>
    obtain ⟨-, f, -, h⟩ := (encodeCommand_next_iff _ _ s t).1 h
    exact .inl ⟨_, h⟩
  | frmDecFcs =>
    obtain ⟨b, -, h⟩ := (decodeCommand_next_iff _ s t).1 h
    exact .inr (.inr ⟨_, h⟩)

end Sys2Proof.Machine
end

