-- ==== Sys2Proof/Laws/PerInstr.lean ====
section
/-! SUPPORT. What holds of every command as a word: the family CommandWord. -/

namespace Sys2Proof.Laws.CommandWord

/-- The command is well-formed, its word is a legal CMD word (R88, R89), and the decoder reads the command back from it (R91). -/
def Statement (i : Instr) : Prop :=
  i.wf = true ∧ CmdWord.wf (encode i) = true ∧ decode (encode i) = .command i

theorem vlanEnc : Statement .vlanEnc := ⟨rfl, by decide, by decide⟩
theorem vlanDec : Statement .vlanDec := ⟨rfl, by decide, by decide⟩
theorem frmEnc : Statement .frmEnc := ⟨rfl, by decide, by decide⟩
theorem frmDec : Statement .frmDec := ⟨rfl, by decide, by decide⟩
theorem frmEncFcs : Statement .frmEncFcs := ⟨rfl, by decide, by decide⟩
theorem frmDecFcs : Statement .frmDecFcs := ⟨rfl, by decide, by decide⟩

end Sys2Proof.Laws.CommandWord
end

