-- ==== Sys2Proof/Laws/Step.lean ====
section
/-! SUPPORT. Everything one step can do. -/

namespace Sys2Proof.Machine

/-- Everything a move of the host can do. -/
theorem hostMove_next {s t : State} (h : hostMove s = .next t) :
    (s.program = [] ∧ t = s) ∨
    (∃ acc rest, s.program = .access acc :: rest ∧ busAccess acc { s with program := rest } = .next t) ∨
    (∃ rest, s.program = .reset :: rest ∧ t = resetInput { s with program := rest }) ∨
    (∃ rest v, s.program = .wait :: rest ∧
      t = recordRead RegName.status.offset v (if s.status.busy then s else { s with program := rest })) := by
  unfold hostMove at h
  split at h
  · rename_i hp; cases h; exact .inl ⟨hp, rfl⟩
  · rename_i acc rest hp; exact .inr (.inl ⟨acc, rest, hp, h⟩)
  · rename_i rest hp; cases h; exact .inr (.inr (.inl ⟨rest, hp, rfl⟩))
  · rename_i rest hp
    obtain ⟨v, hv⟩ := busRead_next h
    exact .inr (.inr (.inr ⟨rest, v, hp, hv⟩))

/-- Everything a move of the block can do. -/
theorem blockMove_next {s t : State} (h : blockMove s = .next t) :
    (s.pend = none ∧ t = s) ∨
    (∃ w i, s.pend = some w ∧ decode w = .command i ∧ exec i s = .next t) ∨
    (∃ w why, s.pend = some w ∧ decode w = .illegal why ∧ t = completeErr .illegalCommand s) := by
  unfold blockMove at h
  split at h
  · rename_i hp; cases h; exact .inl ⟨hp, rfl⟩
  · rename_i w hp
    split at h
    · rename_i i hd; exact .inr (.inl ⟨w, i, hp, hd, h⟩)
    · rename_i why hd; cases h; exact .inr (.inr ⟨w, why, hp, hd, rfl⟩)

/-- A step is one move of the agent whose turn it is. -/
theorem step_next {s t : State} (h : step s = .next t) :
    (nextAgent s = .block ∧ blockMove (takeTurn s) = .next t) ∨
    (nextAgent s = .host ∧ hostMove (takeTurn s) = .next t) := by
  unfold step at h
  split at h
  · rename_i ha; exact .inl ⟨ha, h⟩
  · rename_i ha; exact .inr ⟨ha, h⟩

end Sys2Proof.Machine
end

