-- ==== Sys2Proof/Tests/Slice0.lean ====
section
/-! SUPPORT. The model's tests. Expected values come from spec/95_test_vectors.md (VE, VD, FE, FD, FC, CW) and from the rules
named, never from the model. `witness_...` shows a concrete case that meets the hypotheses of the obligation it names. -/

namespace Sys2Proof.Tests

open Sys2Proof.Machine Sys2Proof.Safety

/-! ### Helpers: small frames and states. -/

/-- The smallest parameters R3 and R4 allow. -/
def smallParams : Params := { bufBytes := 64, maxTags := 2 }

/-- Parameters with room for an FCS and more tags: (128 - 56) / 4 = 18. -/
def wideParams : Params := { bufBytes := 128, maxTags := 18 }

/-- A block after reset. -/
def fresh (p : Params) : State := State.resetWith p

/-- `b` is in IBUF and ILEN is its length. -/
def withInput (b : Bytes) (s : State) : State :=
  { s with ibuf := Memory.ofList 0 b, ilen := BitVec.ofNat 17 b.length }

/-- The frame `f` is in the frame registers, VLAN[] and IBUF. -/
def withFrame (f : Frame) (s : State) : State :=
  withInput f.payload
    { s with
      dstH := some (f.dst.extractLsb' 32 16), dstL := some (f.dst.extractLsb' 0 32)
      srcH := some (f.src.extractLsb' 32 16), srcL := some (f.src.extractLsb' 0 32)
      etype := some f.etype, vlan := Memory.ofList 0 f.vlan, vcount := BitVec.ofNat 16 f.vlan.length }

/-- `g` is in TAG. -/
def withTag (g : VlanTag) (s : State) : State := { s with tag := some g }

/-- One step from `s` with the word `w` just issued. -/
def run (w : Word) (s : State) : Host.Outcome State Fault Refusal := step (s.withFetchWord 32 w.toNat)

/-- What an answer's state shows, where the answer is a next state. -/
def shows {α : Type} (f : State → α) : Host.Outcome State Fault Refusal → Option α
  | .next t => some (f t)
  | .fault _ => none
  | .refused _ => none

/-- The fault an answer stops with. -/
def faultOf : Host.Outcome State Fault Refusal → Option Fault
  | .fault r => some r
  | .next _ => none
  | .refused _ => none

/-- The refusal an answer stops with. -/
def refusalOf : Host.Outcome State Fault Refusal → Option Refusal
  | .refused r => some r
  | .next _ => none
  | .fault _ => none

/-- HB of spec/95: broadcast destination, source 02:00:00:00:00:01. -/
def hb : Bytes := [0xFF, 0xFF, 0xFF, 0xFF, 0xFF, 0xFF, 0x02, 0x00, 0x00, 0x00, 0x00, 0x01]

/-- E1 of spec/95. -/
def e1 : Bytes := hb ++ [0x08, 0x06, 0xDE, 0xAD, 0xBE, 0xEF] ++ List.replicate 42 0x00

/-- E1F of spec/95. -/
def e1f : Bytes := e1 ++ [0x66, 0xFB, 0x9A, 0x85]

/-- E4 of spec/95. -/
def e4 : Bytes := hb ++ [0x81, 0x00, 0x60, 0x64, 0x08, 0x00] ++ List.replicate 46 0x00

/-- The addresses of HB with a chain, a type and a payload. -/
def frameOf (vlan : List VlanTag) (etype : Half) (payload : Bytes) : Frame :=
  { dst := 0xFFFFFFFFFFFF#48, src := 0x020000000001#48, vlan, etype, payload }

/-- FE1's frame. -/
def arp : Frame := frameOf [] 0x0806#16 [0xDE, 0xAD, 0xBE, 0xEF]

/-- FE5's frame. -/
def tagged : Frame := frameOf [{ pri := 3, dei := 0, vid := 100 }] 0x0800#16 []

/-- FE6's frame: its second tag carries the reserved ID. -/
def reserved : Frame := frameOf [{ pri := 1, dei := 0, vid := 10 }, { pri := 0, dei := 0, vid := 0xFFF }] 0x0800#16 []

/-- FE7's frame: its terminal type is the marker. -/
def ambiguous : Frame := frameOf [] 0x8100#16 []

/-- FE8's frame. -/
def chain3 : Frame :=
  { dst := 0x001122334455#48, src := 0x020000000001#48
    vlan := [{ pri := 1, dei := 0, vid := 10 }, { pri := 2, dei := 1, vid := 20 }, { pri := 3, dei := 0, vid := 30 }]
    etype := 0x86DD#16, payload := [0xAA, 0xBB] }

/-- FE8's bytes. -/
def fe8 : Bytes :=
  [0x00, 0x11, 0x22, 0x33, 0x44, 0x55, 0x02, 0x00, 0x00, 0x00, 0x00, 0x01, 0x81, 0x00, 0x20, 0x0A, 0x81, 0x00, 0x50, 0x14,
   0x81, 0x00, 0x60, 0x1E, 0x86, 0xDD, 0xAA, 0xBB] ++ List.replicate 44 0x00

/-! ### Well-formedness: an ill-formed term for each check. -/

/-- R89: OP = 0, OP = 7, bit 3 set, bit 31 set are illegal; OP = 1 and OP = 6 are not. -/
theorem test_command_word_wf :
    CmdWord.wf 0x00000000#32 = false ∧ CmdWord.wf 0x00000007#32 = false ∧ CmdWord.wf 0x00000009#32 = false ∧
    CmdWord.wf 0x80000004#32 = false ∧ CmdWord.wf 0x00000001#32 = true ∧ CmdWord.wf 0x00000006#32 = true := by decide

/-- R88: a command has no field that could be ill-formed. -/
theorem test_instr_wf : Instr.wf .vlanEnc = true ∧ Instr.wf .frmDecFcs = true := by decide

/-- R3, R4: each bound of the parameters, at the value beside it. -/
theorem test_params_wf :
    Params.wf ⟨63, 2⟩ = false ∧ Params.wf ⟨65537, 16384⟩ = false ∧ Params.wf ⟨64, 1⟩ = false ∧
    Params.wf ⟨64, 16385⟩ = false ∧ Params.wf smallParams = true ∧ Params.wf wideParams = true ∧
    Params.wf Params.largest = true := by decide

/-! ### Command words (2.6) -/

/-- R91: each word written out bit by bit, OP in bits [2:0]. -/
theorem test_decode_words :
    decode 0b00000000000000000000000000000001#32 = .command .vlanEnc ∧
    decode 0b00000000000000000000000000000010#32 = .command .vlanDec ∧
    decode 0b00000000000000000000000000000011#32 = .command .frmEnc ∧
    decode 0b00000000000000000000000000000100#32 = .command .frmDec ∧
    decode 0b00000000000000000000000000000101#32 = .command .frmEncFcs ∧
    decode 0b00000000000000000000000000000110#32 = .command .frmDecFcs := by decide

/-- CW1, CW3, CW4, CW5, and the table's numbering of the same bits. -/
theorem test_decode_illegal :
    decode 0x00000000#32 = .illegal .opZero ∧ decode 0x00000007#32 = .illegal .opSeven ∧
    decode 0x00000009#32 = .illegal .highBits ∧ decode 0x80000004#32 = .illegal .highBits ∧
    decodeTableWord 32 3 = some .frmEnc ∧ decodeTableWord 32 0x80000004 = none := by decide

/-- CW4: the illegal word completes with STATUS 0x00000010 from reset, and TAG is not read. -/
theorem test_illegal_completes :
    shows (fun t => (t.status.word, t.pend)) (run 0x00000009#32 (fresh smallParams)) = some (0x00000010#32, none) := by
  decide

/-! ### VLAN tag codec (2.1, 2.2) -/

/-- VE1 to VE8. -/
theorem test_vlanEncode :
    vlanEncode ⟨0, 0, 0⟩ = .ok [0x00, 0x00] ∧ vlanEncode ⟨3, 0, 100⟩ = .ok [0x60, 0x64] ∧
    vlanEncode ⟨7, 1, 0xFFE⟩ = .ok [0xFF, 0xFE] ∧ vlanEncode ⟨0, 0, 0xFFF⟩ = .err .invalidVlanId ∧
    vlanEncode ⟨7, 1, 0xFFF⟩ = .err .invalidVlanId ∧ vlanEncode ⟨5, 1, 0x123⟩ = .ok [0xB1, 0x23] ∧
    vlanEncode ⟨0, 0, 1⟩ = .ok [0x00, 0x01] ∧ vlanEncode ⟨0, 1, 0xFFE⟩ = .ok [0x1F, 0xFE] := by decide

/-- VD1 to VD13. -/
theorem test_vlanDecode :
    vlanDecode [0xB1, 0x23] = .ok ⟨5, 1, 0x123⟩ ∧ vlanDecode [0x0F, 0xFF] = .err .invalidVlanId ∧
    vlanDecode [0xFF, 0xFF] = .err .invalidVlanId ∧ vlanDecode [0xFF, 0xFE] = .ok ⟨7, 1, 0xFFE⟩ ∧
    vlanDecode [] = .err .truncatedInput ∧ vlanDecode [0x60] = .err .truncatedInput ∧
    vlanDecode [0x60, 0x64, 0x00] = .err .truncatedInput ∧ vlanDecode [0xFF, 0xFF, 0xFF] = .err .truncatedInput ∧
    vlanDecode [0xE0, 0x00] = .ok ⟨7, 0, 0⟩ ∧ vlanDecode [0x10, 0x00] = .ok ⟨0, 1, 0⟩ ∧
    vlanDecode [0x0F, 0xFE] = .ok ⟨0, 0, 0xFFE⟩ ∧ vlanDecode [0xF0, 0xFF] = .ok ⟨7, 1, 0x0FF⟩ := by decide

/-- VE9: TAG written as 0xFFFFF064 reads 0x07010064 and encodes to F0 64. -/
theorem test_vlanEnc_reserved_bits_are_dropped :
    tagToVtag (vtagToTag 0xFFFFF064#32) = 0x07010064#32 ∧
    shows (fun t => (t.obuf, t.olen, t.status.word)) (run 1#32 (withTag (vtagToTag 0xFFFFF064#32) (fresh smallParams))) =
      some ([(0, 0xF0#8), (1, 0x64#8)], 2#17, 0x00000002#32) := by decide

/-- VE4: the reserved ID; OBUF and OLEN unchanged. -/
theorem test_vlanEnc_reserved_id :
    shows (fun t => (t.obuf, t.olen, t.status.word))
        (run 1#32 { withTag ⟨0, 0, 0xFFF⟩ (fresh smallParams) with obuf := [(0, 0xAB#8)], olen := 1#17 }) =
      some ([(0, 0xAB#8)], 1#17, 0x00000004#32) := by decide

/-- VD13: only the ID bits are checked. -/
theorem test_vlanDec_priority_is_not_checked :
    shows (fun t => (t.tag.map tagToVtag, t.status.word)) (run 2#32 (withInput [0xF0, 0xFF] (fresh smallParams))) =
      some (some 0x070100FF#32, 0x00000002#32) := by decide

/-- VD8: the length is checked before the ID; TAG unchanged. -/
theorem test_vlanDec_length_first :
    shows (fun t => (t.tag, t.status.word)) (run 2#32 (withInput [0xFF, 0xFF, 0xFF] (fresh smallParams))) =
      some (none, 0x00000008#32) := by decide

/-! ### Frame encoder (2.3) -/

/-- FE1, FE5, FE6, FE7 and FE8. -/
theorem test_frameEncode :
    frameEncode arp = .ok e1 ∧ frameEncode tagged = .ok e4 ∧ frameEncode reserved = .err .invalidVlanId ∧
    frameEncode ambiguous = .ok (hb ++ [0x81, 0x00] ++ List.replicate 46 0x00) ∧ frameEncode chain3 = .ok fe8 := by
  decide +kernel

/-- FE3, FE4: 46 and 47 payload bytes get no padding; R121's lengths. -/
theorem test_frameEncode_no_padding :
    frameEncode (frameOf [] 0x0800#16 (List.replicate 46 0x2D)) =
      .ok (hb ++ [0x08, 0x00] ++ List.replicate 46 0x2D) ∧
    frameEncode (frameOf [] 0x0800#16 (List.replicate 47 0x2E)) =
      .ok (hb ++ [0x08, 0x00] ++ List.replicate 47 0x2E) := by decide +kernel

/-- FE11, FE13: BUF_BYTES = 64, VCOUNT = 1, ILEN = 0 fits with OLEN = 64; VLAN[j] from VCOUNT on is not read. -/
theorem test_frmEnc_fits :
    shows (fun t => (t.olen, t.obuf.map Prod.snd, t.status.word)) (run 3#32 (withFrame tagged (fresh smallParams))) =
      some (64#17, e4, 0x00000002#32) := by decide +kernel

/-- FE12: VCOUNT = 2 with VLAN[1] never written since reset. -/
theorem test_frmEnc_unwritten_entry :
    faultOf (run 3#32 { withFrame tagged (fresh wideParams) with vcount := 2#16 }) = some .unwrittenRead := by
  decide +kernel

/-- FC2: FRM_ENC_FCS of FE1's frame gives E1F, OLEN = 64. -/
theorem test_frmEncFcs :
    shows (fun t => (t.olen, t.obuf.map Prod.snd, t.status.word)) (run 5#32 (withFrame arp (fresh smallParams))) =
      some (64#17, e1f, 0x00000002#32) := by decide +kernel

/-- FC13: 14 + 4 + 46 + 4 = 68 > 64. FE10: 14 + 8 + 46 = 68 > 64, with no operand written. -/
theorem test_oversize :
    refusalOf (run 5#32 (withFrame tagged (fresh smallParams))) = some .oversize ∧
    refusalOf (run 3#32 { fresh smallParams with vcount := 2#16, ilen := 46#17 }) = some .oversize := by decide +kernel

/-! ### Frame decoder (2.4) -/

/-- FD2 to FD7e: the heuristic at its boundaries, untagged and tagged. -/
theorem test_frameDecode_heuristic :
    (∀ n ∈ [0, 41, 43, 44, 45], frameDecode (hb ++ [0x08, 0x00] ++ List.replicate n 0x00) = .err .truncatedInput) ∧
    (∀ n ∈ [42, 46, 47], frameDecode (hb ++ [0x08, 0x00] ++ List.replicate n 0x00) =
      .ok (frameOf [] 0x0800#16 (List.replicate n 0x00))) ∧
    (∀ n ∈ [0, 41], frameDecode (hb ++ [0x81, 0x00, 0x60, 0x64, 0x08, 0x00] ++ List.replicate n 0x00) =
      .err .truncatedInput) ∧
    (∀ n ∈ [42, 43, 45], frameDecode (hb ++ [0x81, 0x00, 0x60, 0x64, 0x08, 0x00] ++ List.replicate n 0x00) =
      .ok (frameOf tagged.vlan 0x0800#16 (List.replicate n 0x00))) := by decide +kernel

/-- FD1, FD8 to FD13b: short inputs, short chain steps, and where a bad ID is reported. -/
theorem test_frameDecode_errors :
    frameDecode (hb ++ [0x08]) = .err .truncatedInput ∧
    frameDecode (hb ++ [0x81, 0x00]) = .err .truncatedInput ∧
    frameDecode (hb ++ [0x81, 0x00, 0xFF, 0xFF]) = .err .truncatedInput ∧
    frameDecode (hb ++ [0x81, 0x00, 0xFF, 0xFF, 0x08]) = .err .truncatedInput ∧
    frameDecode (hb ++ [0x81, 0x00, 0xFF, 0xFF, 0x08, 0x00]) = .err .invalidVlanId ∧
    frameDecode (hb ++ [0x81, 0x00, 0xFF, 0xFF, 0x08, 0x00] ++ List.replicate 41 0x00) = .err .invalidVlanId ∧
    frameDecode (hb ++ [0x81, 0x00, 0x60, 0x64, 0x81, 0x00]) = .err .truncatedInput ∧
    frameDecode (hb ++ [0x81, 0x00, 0x60, 0x64, 0x81, 0x00, 0xFF, 0xFF, 0x08, 0x00] ++ List.replicate 38 0x00) =
      .err .invalidVlanId := by decide +kernel

/-- FD14b, FD15, FD18, FD18b, FD20: what is a marker, the C3 counterexample, two tags' slack, a small type. -/
theorem test_frameDecode_chain :
    frameDecode (hb ++ [0x88, 0xA8, 0x81, 0x00, 0x60, 0x64] ++ List.replicate 42 0x00) =
      .ok (frameOf [] 0x88A8#16 ([0x81, 0x00, 0x60, 0x64] ++ List.replicate 42 0x00)) ∧
    frameDecode (hb ++ [0x81, 0x00] ++ List.replicate 46 0x00) =
      .ok (frameOf [⟨0, 0, 0⟩] 0x0000#16 (List.replicate 42 0x00)) ∧
    frameDecode (hb ++ [0x81, 0x00, 0x60, 0x64, 0x81, 0x00, 0x00, 0x01, 0x08, 0x00] ++ List.replicate 42 0x00) =
      .ok (frameOf [⟨3, 0, 100⟩, ⟨0, 0, 1⟩] 0x0800#16 (List.replicate 42 0x00)) ∧
    frameDecode (hb ++ [0x81, 0x00, 0x60, 0x64, 0x81, 0x00, 0x00, 0x01, 0x08, 0x00] ++ List.replicate 41 0x00) =
      .err .truncatedInput ∧
    frameDecode (hb ++ [0x00, 0x2E] ++ List.replicate 46 0x00) =
      .ok (frameOf [] 0x002E#16 (List.replicate 46 0x00)) := by decide +kernel

/-- FD17: the address registers after FRM_DEC of the FE8 output. -/
theorem test_frmDec_addresses :
    shows (fun t => (t.dstH, t.dstL, t.srcH, t.srcL)) (run 4#32 (withInput fe8 (fresh wideParams))) =
      some (some 0x0011#16, some 0x22334455#32, some 0x0200#16, some 0x00000001#32) := by decide +kernel

/-- FD17: the chain, VCOUNT and OLEN after FRM_DEC of the FE8 output. -/
theorem test_frmDec_chain :
    shows (fun t => (t.vcount, t.vlan.map Prod.fst, t.vlan.map (fun c => tagToVtag c.2), t.olen))
        (run 4#32 (withInput fe8 (fresh wideParams))) =
      some (3#16, [0, 1, 2], [0x0100000A#32, 0x02010014#32, 0x0300001E#32], 46#17) := by decide +kernel

/-- P3's first command: with ILEN = 0 from reset FRM_DEC reads no byte and completes with TruncatedInput. -/
theorem test_frmDec_empty_input :
    shows (fun t => t.status.word) (run 4#32 (fresh smallParams)) = some 0x00000008#32 := by decide

/-! ### FCS (2.5) -/

/-- The check values of R171, and FC1's. -/
theorem test_crc32_check_values :
    crc32 [] = 0x00000000#32 ∧
    crc32 [0x31, 0x32, 0x33, 0x34, 0x35, 0x36, 0x37, 0x38, 0x39] = 0xCBF43926#32 ∧
    crc32 (List.replicate 13 0x00) = 0x0F744682#32 := by decide +kernel

/-- The CRCs spec/95 gives for whole frames: E1, E4, FE2, FE8, and FC9's two residues. -/
theorem test_crc32_frames :
    crc32 e1 = 0x66FB9A85#32 ∧ crc32 e4 = 0xEDB568E4#32 ∧
    crc32 (hb ++ [0x08, 0x00] ++ List.replicate 46 0x00) = 0xF82D88C1#32 ∧ crc32 fe8 = 0x0F691E5B#32 ∧
    crc32 e1f = 0xE97E79F9#32 ∧ crc32 (e1 ++ [0x85, 0x9A, 0xFB, 0x66]) = 0x2144DF1C#32 := by decide +kernel

/-- FC4 to FC8, FC10, FC11: the order of the checks, and single flipped bits. -/
theorem test_frameDecodeFcs :
    frameDecodeFcs [0x00, 0x00, 0x00] = .err .truncatedInput ∧
    frameDecodeFcs [0x00, 0x00, 0x00, 0x00] = .err .truncatedInput ∧
    frameDecodeFcs (e1f.set 0 0xFE) = .err .checksumMismatch ∧
    frameDecodeFcs (e1f.set 63 0x05) = .err .checksumMismatch ∧
    frameDecodeFcs (e1f.set 20 0x10) = .err .checksumMismatch ∧
    frameDecodeFcs (List.replicate 13 0x00 ++ [0x0F, 0x74, 0x46, 0x82]) = .err .truncatedInput ∧
    frameDecodeFcs (List.replicate 13 0x00 ++ [0x00, 0x00, 0x00, 0x00]) = .err .checksumMismatch := by decide +kernel

/-- FC14, FC15: a bad tag behind a good and behind a bad trailer. -/
theorem test_frameDecodeFcs_bad_tag :
    frameDecodeFcs (hb ++ [0x81, 0x00, 0xFF, 0xFF, 0x08, 0x00] ++ List.replicate 46 0x00 ++ [0xD4, 0x4F, 0xE5, 0x32]) =
      .err .invalidVlanId ∧
    frameDecodeFcs (hb ++ [0x81, 0x00, 0xFF, 0xFF, 0x08, 0x00] ++ List.replicate 46 0x00 ++ [0x00, 0x00, 0x00, 0x00]) =
      .err .checksumMismatch := by decide +kernel

/-- FC3: FRM_DEC_FCS of E1F leaves the payload without the FCS. -/
theorem test_frmDecFcs :
    shows (fun t => (t.olen, t.obuf.map Prod.snd, t.etype, t.status.word)) (run 6#32 (withInput e1f (fresh smallParams))) =
      some (46#17, [0xDE#8, 0xAD, 0xBE, 0xEF] ++ List.replicate 42 0x00, some 0x0806#16, 0x00000002#32) := by
  decide +kernel

/-- FC6: FRM_DEC_FCS writes only STATUS = 0x0000000C. -/
theorem test_frmDecFcs_mismatch :
    shows (fun t => (t.olen, t.obuf, t.etype, t.status.word))
        (run 6#32 (withInput (e1f.set 0 0xFE) (fresh smallParams))) =
      some (0#17, [], none, 0x0000000C#32) := by decide +kernel

/-! ### The bus (20_memory.md, 10_state.md) -/

/-- CW6: any write while BUSY = 1. R241: STATUS reads 0x00000001 meanwhile. -/
theorem test_busy :
    faultOf (hostWrite 0x00000#18 1#32 (issue 1#32 (fresh smallParams))) = some .busyWrite ∧
    shows (fun t => t.reads) (hostRead 0x00004#18 (issue 1#32 (fresh smallParams))) = some [⟨0x00004#18, 1#32⟩] := by
  decide

/-- R25, R241: with VLAN_ENC pending a read of SRC_L, which holds no value, faults; one of OBUF[0] does not. -/
theorem test_busy_reads_of_no_value :
    faultOf (busAccess (.read .w32 0x0001C#18) (issue 1#32 (fresh smallParams))) = some .unwrittenRead ∧
    faultOf (busAccess (.read .w8 0x30000#18) (issue 1#32 (fresh smallParams))) = none := by decide

/-- R35: an IBUF byte is stored, at the last index of the buffer, and read back. -/
theorem test_ibuf_write :
    shows State.ibuf (hostWriteByte 0x2003F#18 0xDE#8 (fresh smallParams)) = some [(63, 0xDE#8)] ∧
    shows State.reads (hostReadByte 0x2003F#18 { fresh smallParams with ibuf := [(63, 0xDE#8)] }) =
      some [⟨0x2003F#18, 0xDE#32⟩] := by decide

/-- R33, R39: ILEN takes BUF_BYTES and refuses one more; VCOUNT takes MAX_TAGS and refuses one more. -/
theorem test_bounds :
    shows (fun t => t.ilen) (hostWrite 0x00008#18 64#32 (fresh smallParams)) = some 64#17 ∧
    refusalOf (hostWrite 0x00008#18 65#32 (fresh smallParams)) = some .illegalValue ∧
    shows (fun t => t.vcount) (hostWrite 0x00024#18 2#32 (fresh smallParams)) = some 2#16 ∧
    refusalOf (hostWrite 0x00024#18 3#32 (fresh smallParams)) = some .illegalValue := by decide

/-- R51: a 32-bit access to a buffer, a narrow and a misaligned access to a register, a narrow access between the windows. -/
theorem test_bad_access :
    refusalOf (busAccess (.read .w32 0x20000#18) (fresh smallParams)) = some .badAccess ∧
    refusalOf (busAccess (.write .w16 0x00010#18 0#32) (fresh smallParams)) = some .badAccess ∧
    refusalOf (busAccess (.read .w32 0x00006#18) (fresh smallParams)) = some .badAccess ∧
    refusalOf (busAccess (.read .w8 0x00100#18) (fresh smallParams)) = some .badAccess := by decide

/-- R52: the entry at MAX_TAGS and the byte at BUF_BYTES read 0; the last entry and byte of the arrays have no value yet. -/
theorem test_unmapped :
    shows (fun t => t.reads) (busAccess (.read .w32 0x10008#18) (fresh smallParams)) = some [⟨0x10008#18, 0#32⟩] ∧
    shows (fun t => t.reads) (busAccess (.read .w8 0x20040#18) (fresh smallParams)) = some [⟨0x20040#18, 0#32⟩] ∧
    faultOf (busAccess (.read .w32 0x10004#18) (fresh smallParams)) = some .unwrittenRead ∧
    faultOf (busAccess (.read .w8 0x2003F#18) (fresh smallParams)) = some .unwrittenRead := by decide

/-- R230, R231: reset with a command pending. -/
theorem test_reset :
    shows (fun t => (t.status.word, t.pend, t.ilen, t.tag))
        (hostMove { issue 1#32 (withTag ⟨0, 0, 1⟩ (withInput [0x60] (fresh smallParams))) with program := [.reset] }) =
      some (0#32, none, 0#17, none) := by decide

/-- R93: the expansions `SETTAG TAG, 7, 1, 0xFFE`, `SETMAC` and `LOAD` as bus accesses (programs P1 and P3 of spec/95). -/
theorem test_host_notation :
    stmtSetTag .tag ⟨7, 1, 0xFFE⟩ = [.access (.write .w32 0x00028#18 0x07010FFE#32)] ∧
    stmtSetSrc 0x020000000001#48 =
      [.access (.write .w32 0x00018#18 0x00000200#32), .access (.write .w32 0x0001C#18 0x00000001#32)] ∧
    stmtLoad [0xDE, 0xAD] =
      [.access (.write .w8 0x20000#18 0xDE#32), .access (.write .w8 0x20001#18 0xAD#32),
       .access (.write .w32 0x00008#18 2#32)] := by decide

/-! ### Witnesses: the hypotheses of each obligation are met by a concrete case, clause by clause. -/

/-- VLAN_ENC is pending; nothing is written yet. -/
def pendingTag : State := issue 1#32 (fresh smallParams)

/-- The tag that fails. -/
def badTag : VlanTag := ⟨0, 0, 0xFFF⟩

/-- An idle state with a host statement to perform. -/
def withProgram (p : List HostStmt) (s : State) : State := { s with program := p }

theorem witness_DecoderIsTotalAndExact :
    decode 7#32 = .illegal .opSeven ∧ 7 ≤ (7#32 : Word).toNat ∧ decode 6#32 = .command .frmDecFcs := by decide

theorem witness_IllegalWordsCompleteAsIllegalCommand :
    (¬ ∃ i, decode 9#32 = .command i) ∧ (¬ ∃ i, decode 0#32 = .command i) ∧ (fresh smallParams).status.busy = false ∧
    (issue 9#32 (fresh smallParams)).pend = some 9#32 := by
  refine ⟨fun h => ?_, fun h => ?_, rfl, rfl⟩ <;> (obtain ⟨i, h⟩ := h; revert h; cases i <;> decide)

theorem witness_VtagFormatRoundTrip : (0x07010FFF#32 : Word) &&& 0x07010FFF#32 = 0x07010FFF#32 := by decide

theorem witness_VlanEncodePacksOrRejects : badTag.vid = 0xFFF#12 ∧ (⟨7, 1, 0xFFE⟩ : VlanTag).vid ≠ 0xFFF#12 := by decide

theorem witness_VlanDecodeChecksLengthThenId :
    ([0xFF#8, 0xFF#8, 0xFF#8] : Bytes).length ≠ 2 ∧ (0x0F#8).extractLsb' 0 4 ++ 0xFF#8 = 0xFFF#12 ∧
    (0x0F#8).extractLsb' 0 4 ++ 0xFE#8 ≠ 0xFFF#12 := by decide

theorem witness_VlanCodecPairLaws :
    (⟨7, 1, 0xFFE⟩ : VlanTag).vid ≠ 0xFFF#12 ∧ ([0xB1#8, 0x23#8] : Bytes).length = 2 ∧
    (rd16be [0xB1#8, 0x23#8] 0).extractLsb' 0 12 ≠ 0xFFF#12 := by decide

theorem witness_FrameEncodeLength : frameEncode arp = .ok e1 := by decide +kernel

theorem witness_FrameEncodeLayout : frameEncode chain3 = .ok fe8 ∧ 2 < chain3.vlan.length := by decide +kernel

theorem witness_FrameEncodeRejectsReservedIds : ∃ t ∈ reserved.vlan, t.vid = 0xFFF#12 := by decide

theorem witness_FrameEncodeAcceptsAllElse :
    ambiguous.etype = 0x8100#16 ∧ frameEncode ambiguous = .ok (hb ++ [0x81, 0x00] ++ List.replicate 46 0x00) ∧
    frameDecode (hb ++ [0x81, 0x00] ++ List.replicate 46 0x00) =
      .ok (frameOf [⟨0, 0, 0⟩] 0x0000#16 (List.replicate 42 0x00)) := by decide +kernel

theorem witness_ShortInputsAreTruncated : (hb ++ [0x08, 0x00]).length ≤ 14 ∧ ([] : Bytes).length ≤ 14 := by decide

theorem witness_ChainStepNeedsFourBytes : IdsValid tagged.vlan ∧ IdsValid [] ∧ ([0xFF#8, 0xFF#8, 0x08#8] : Bytes).length < 4 := by
  unfold IdsValid; decide

theorem witness_ReservedIdInChainIsRejected :
    IdsValid tagged.vlan ∧ badTag.vid = 0xFFF#12 ∧ 2 ≤ ([0x08#8, 0x00#8] : Bytes).length := by
  unfold IdsValid; decide

theorem witness_FrameDecodeOfWireBytes :
    (∀ n ∈ [42, 46, 41, 43, 45], IdsValid (frameOf [] 0x0800#16 (List.replicate n 0x00)).vlan ∧
      (frameOf [] 0x0800#16 (List.replicate n 0x00)).etype ≠ 0x8100#16 ∧
      (frameOf [] 0x0800#16 (List.replicate n 0x00)).payload.length = n) ∧
    (∀ n ∈ [42, 41], IdsValid (frameOf tagged.vlan 0x0800#16 (List.replicate n 0x00)).vlan ∧
      (frameOf tagged.vlan 0x0800#16 (List.replicate n 0x00)).vlan ≠ [] ∧
      (frameOf tagged.vlan 0x0800#16 (List.replicate n 0x00)).etype ≠ 0x8100#16 ∧
      (frameOf tagged.vlan 0x0800#16 (List.replicate n 0x00)).payload.length = n) := by
  unfold IdsValid; decide +kernel

theorem witness_EncodeThenDecodeGivesThePaddedFrame : IdsValid chain3.vlan ∧ chain3.etype ≠ 0x8100#16 := by
  unfold IdsValid; decide

theorem witness_DecodeThenEncodeGivesThePaddedBytes :
    frameDecode (hb ++ [0x08, 0x00] ++ List.replicate 42 0x00) = .ok (frameOf [] 0x0800#16 (List.replicate 42 0x00)) := by
  decide +kernel

/-- A fresh block with `b` in IBUF meets the invariant. -/
theorem inv_withInput (b : Bytes) (p : Params) (hp : p.wf = true) (hb : b.length ≤ p.bufBytes)
    (hw : Memory.wf (Memory.ofList 0 b)) (hlt : ∀ c ∈ Memory.ofList 0 b, c.1 < p.bufBytes) :
    Inv (withInput b (fresh p)) where
  params := hp
  busy_iff_pending := rfl
  status_legal := by (show Status.legal (fresh p).status = true); exact (by decide : Status.legal ⟨false, false, 0#3⟩ = true)
  ilen_le := Nat.le_trans (by (show (BitVec.ofNat 17 b.length).toNat ≤ b.length); rw [BitVec.toNat_ofNat]; exact Nat.mod_le _ _) hb
  olen_le := Nat.zero_le _
  vcount_le := Nat.zero_le _
  ibuf_wf := hw
  obuf_wf := List.Pairwise.nil
  vlan_wf := List.Pairwise.nil
  ibuf_lt := hlt
  vlan_lt := fun c hc => nomatch hc
  obuf_valued := fun _ => rfl

theorem witness_DecodedFramesFit :
    Inv (withInput e1f (fresh smallParams)) ∧ HoldsInput (withInput e1f (fresh smallParams)) e1f ∧
    frameDecodeFcs e1f = .ok (frameOf [] 0x0806#16 ([0xDE, 0xAD, 0xBE, 0xEF] ++ List.replicate 42 0x00)) := by
  refine ⟨inv_withInput _ _ (by decide) (by decide) (by decide +kernel) (by decide +kernel), ?_, by decide +kernel⟩
  unfold HoldsInput; decide +kernel

theorem witness_FcsEncodeAppendsBigEndianCrc :
    frameEncode reserved = .err .invalidVlanId ∧ frameEncode arp = .ok e1 ∧ frameEncodeFcs arp = .ok e1f := by
  decide +kernel

theorem witness_FcsDecodeChecksInOrder :
    ([0x00#8, 0x00#8, 0x00#8] : Bytes).length < 4 ∧ crc32 e1 = 0x66#8 ++ 0xFB#8 ++ 0x9A#8 ++ 0x85#8 ∧
    crc32 e1 ≠ 0x66#8 ++ 0xFB#8 ++ 0x9A#8 ++ 0x05#8 := by decide +kernel

theorem witness_EveryFlippedBitIsDetected : frameEncodeFcs arp = .ok e1f ∧ 63 < e1f.length ∧ 7 < 8 := by decide +kernel

theorem witness_FcsRoundTripGivesThePaddedFrame : IdsValid arp.vlan ∧ arp.etype ≠ 0x8100#16 := by unfold IdsValid; decide

theorem witness_VlanEncCommand :
    (withTag ⟨7, 1, 0xFFE⟩ (fresh smallParams)).tag = some ⟨7, 1, 0xFFE⟩ ∧
    (withTag badTag (fresh smallParams)).tag = some badTag ∧ (fresh smallParams).tag = none := by decide

theorem witness_VlanDecCommand :
    HoldsInput (withInput [0x0F, 0xFE] (fresh smallParams)) [0x0F, 0xFE] ∧
    HoldsInput (withInput [0x0F, 0xFF] (fresh smallParams)) [0x0F, 0xFF] ∧
    HoldsInput (withInput [0xFF, 0xFF, 0xFF] (fresh smallParams)) [0xFF, 0xFF, 0xFF] ∧
    (withInput [0xFF, 0xFF, 0xFF] (fresh smallParams)).ilen.toNat ≠ 2 ∧ HoldsInput (fresh smallParams) [] := by
  unfold HoldsInput; decide

/-- Some input byte has no value, in IBUF's first byte. -/
theorem witness_LacksInput : LacksInput { fresh smallParams with ilen := 1#17 } := ⟨0, by decide, rfl⟩

theorem witness_FrmEncCommand :
    smallParams.bufBytes < 14 + 4 * (2#16 : Half).toNat + max (46#17).toNat 46 ∧
    HoldsFrame (withFrame tagged (fresh smallParams)) tagged ∧
    14 + 4 * (withFrame tagged (fresh smallParams)).vcount.toNat + max (withFrame tagged (fresh smallParams)).ilen.toNat 46
      ≤ smallParams.bufBytes ∧
    IdsValid tagged.vlan ∧ smallParams.wf = true ∧
    HoldsFrame (withFrame reserved (fresh wideParams)) reserved ∧ (∃ t ∈ reserved.vlan, t.vid = 0xFFF#12) ∧
    14 + 4 * (withFrame reserved (fresh wideParams)).vcount.toNat + max (withFrame reserved (fresh wideParams)).ilen.toNat 46
      ≤ wideParams.bufBytes := by
  unfold HoldsFrame HoldsChain HoldsInput IdsValid; decide +kernel

/-- A fresh block holds no frame, and its encode would fit (60 bytes, and 64 with the FCS). -/
theorem witness_LacksFrame :
    LacksFrame (fresh smallParams) ∧
    14 + 4 * (fresh smallParams).vcount.toNat + max (fresh smallParams).ilen.toNat 46 + 4 ≤ smallParams.bufBytes :=
  ⟨.inl rfl, by decide⟩

theorem witness_FrmDecCommand :
    HoldsInput (withInput e1 (fresh smallParams)) e1 ∧
    frameDecode e1 = .ok (frameOf [] 0x0806#16 ([0xDE, 0xAD, 0xBE, 0xEF] ++ List.replicate 42 0x00)) ∧
    HoldsInput (withInput (hb ++ [0x81, 0x00, 0xFF, 0xFF, 0x08, 0x00]) (fresh smallParams))
      (hb ++ [0x81, 0x00, 0xFF, 0xFF, 0x08, 0x00]) ∧
    frameDecode (hb ++ [0x81, 0x00, 0xFF, 0xFF, 0x08, 0x00]) = .err .invalidVlanId ∧
    HoldsInput (fresh smallParams) [] ∧ frameDecode [] = .err .truncatedInput := by
  unfold HoldsInput; decide +kernel

/-- The invariant, beside the input of a frame that decodes (FRM_DEC's last clause). -/
theorem witness_FrmDecCommand_fits : Inv (withInput e1 (fresh smallParams)) :=
  inv_withInput _ _ (by decide) (by decide) (by decide +kernel) (by decide +kernel)

theorem witness_FrmEncFcsCommand :
    smallParams.bufBytes < 14 + 4 * (withFrame tagged (fresh smallParams)).vcount.toNat
      + max (withFrame tagged (fresh smallParams)).ilen.toNat 46 + 4 ∧
    HoldsFrame (withFrame arp (fresh smallParams)) arp ∧ IdsValid arp.vlan ∧
    14 + 4 * (withFrame arp (fresh smallParams)).vcount.toNat + max (withFrame arp (fresh smallParams)).ilen.toNat 46 + 4
      ≤ smallParams.bufBytes ∧
    HoldsFrame (withFrame reserved (fresh wideParams)) reserved ∧ (∃ t ∈ reserved.vlan, t.vid = 0xFFF#12) ∧
    14 + 4 * (withFrame reserved (fresh wideParams)).vcount.toNat
      + max (withFrame reserved (fresh wideParams)).ilen.toNat 46 + 4 ≤ wideParams.bufBytes := by
  unfold HoldsFrame HoldsChain HoldsInput IdsValid; decide +kernel

theorem witness_FrmDecFcsCommand :
    HoldsInput (withInput [0x00, 0x00, 0x00] (fresh smallParams)) [0x00, 0x00, 0x00] ∧
    (withInput [0x00, 0x00, 0x00] (fresh smallParams)).ilen.toNat < 4 ∧
    HoldsInput (withInput e1f (fresh smallParams)) (e1 ++ [0x66, 0xFB, 0x9A, 0x85]) ∧
    crc32 e1 = 0x66#8 ++ 0xFB#8 ++ 0x9A#8 ++ 0x85#8 ∧
    HoldsInput (withInput (e1f.set 63 0x05) (fresh smallParams)) (e1 ++ [0x66, 0xFB, 0x9A, 0x05]) ∧
    crc32 e1 ≠ 0x66#8 ++ 0xFB#8 ++ 0x9A#8 ++ 0x05#8 ∧
    HoldsInput (withInput [0x00, 0x00, 0x00, 0x00] (fresh smallParams)) ([] ++ [0x00, 0x00, 0x00, 0x00]) ∧
    crc32 [] = 0x00#8 ++ 0x00#8 ++ 0x00#8 ++ 0x00#8 ∧ frameDecode [] = .err .truncatedInput := by
  unfold HoldsInput; decide +kernel

/-- FC14's body and trailer: the CRC matches and the tag fails. -/
theorem witness_FrmDecFcsCommand_bad_tag :
    crc32 (hb ++ [0x81, 0x00, 0xFF, 0xFF, 0x08, 0x00] ++ List.replicate 46 0x00) = 0xD4#8 ++ 0x4F#8 ++ 0xE5#8 ++ 0x32#8 ∧
    frameDecode (hb ++ [0x81, 0x00, 0xFF, 0xFF, 0x08, 0x00] ++ List.replicate 46 0x00) = .err .invalidVlanId := by
  decide +kernel

theorem witness_DecodeCommandsLoadTheFrameOnTheWire :
    HoldsInput (withInput (wireBytes (frameOf tagged.vlan 0x0800#16 (List.replicate 46 0x00))) (fresh wideParams))
      (wireBytes (frameOf tagged.vlan 0x0800#16 (List.replicate 46 0x00))) ∧
    HoldsInput (withInput (e4 ++ be32 (crc32 e4)) (fresh wideParams)) (e4 ++ be32 (crc32 e4)) ∧
    wireBytes (frameOf tagged.vlan 0x0800#16 (List.replicate 46 0x00)) = e4 ∧ IdsValid tagged.vlan ∧
    tagged.etype ≠ 0x8100#16 ∧ 46 ≤ (List.replicate 46 0x00#8).length := by
  unfold HoldsInput IdsValid; decide +kernel

theorem witness_EveryCommandCompletes :
    (∃ g, (withTag badTag (fresh smallParams)).tag = some g) ∧ (∃ b, HoldsInput (fresh smallParams) b) ∧
    (∃ f, HoldsFrame (withFrame arp (fresh smallParams)) f) ∧
    14 + 4 * (withFrame arp (fresh smallParams)).vcount.toNat + max (withFrame arp (fresh smallParams)).ilen.toNat 46 + 4
      ≤ smallParams.bufBytes :=
  ⟨⟨badTag, rfl⟩, ⟨[], by unfold HoldsInput; decide⟩,
    ⟨arp, by unfold HoldsFrame HoldsChain HoldsInput; decide +kernel⟩, by decide⟩

theorem witness_ErrorsChangeOnlyStatus :
    exec .vlanEnc (withTag badTag (fresh smallParams)) = .next (failedWith 1#3 (withTag badTag (fresh smallParams))) ∧
    (failedWith 1#3 (withTag badTag (fresh smallParams))).status.ok = false ∧
    (issue 9#32 (fresh smallParams)).pend = some 9#32 ∧ decode 9#32 = .illegal .highBits := ⟨rfl, rfl, rfl, by decide⟩

theorem witness_CommandsLeaveAllElseUnchanged :
    (∃ t, exec .vlanEnc (withTag ⟨0, 0, 1⟩ (fresh smallParams)) = .next t ∧ t.status.ok = true ∧ t.olen.toNat ≤ 2) ∧
    (∃ t, exec .vlanDec (withInput [0x0F, 0xFE] (fresh smallParams)) = .next t) ∧ smallParams.wf = true :=
  ⟨⟨_, rfl, rfl, by decide⟩, ⟨_, rfl⟩, by decide⟩

theorem witness_CommandsReadOnlyTheirOperands :
    SameInput (withInput [0x60] (fresh smallParams)) { withInput [0x60, 0x64] (fresh wideParams) with ilen := 1#17 } ∧
    SameFrameOperands (withFrame tagged (fresh wideParams))
      { withFrame tagged (fresh wideParams) with vlan := Memory.ofList 0 (tagged.vlan ++ [badTag]), tag := some badTag } := by
  unfold SameFrameOperands SameInput; decide +kernel

theorem witness_StepRunsTheDecodedCommand :
    pendingTag.pend = some 1#32 ∧ pendingTag.turns = [] ∧ decode 1#32 = .command .vlanEnc ∧ Instr.wf .vlanEnc = true ∧
    (pendingTag.withFetchWord 32 9).pend = some 9#32 ∧ (pendingTag.withFetchWord 32 9).turns.head? = some .block ∧
    decode 9#32 = .illegal .highBits := by decide

theorem witness_StepPerformsTheHostsNextStatement :
    (fresh smallParams).turns = [] ∧ (fresh smallParams).pend = none ∧ (fresh smallParams).program = [] ∧
    (withProgram [stmtRd .status] { pendingTag with turns := [.host] }).turns.head? = some .host ∧
    (withProgram [stmtRd .status] { pendingTag with turns := [.host] }).program =
      .access (.read .w32 0x00004#18) :: [] ∧
    (withProgram [.reset] { pendingTag with turns := [.host] }).program = .reset :: [] := by decide

theorem witness_WaitPollsUntilIdle :
    (withProgram [.wait] pendingTag).program = .wait :: [] ∧ (withProgram [.wait] pendingTag).status.busy = true ∧
    (withProgram [.wait] (fresh smallParams)).status.busy = false := by decide

theorem witness_PendingCommandIsCompleted :
    pendingTag.pend.isSome = true ∧ (withTag ⟨0, 0, 1⟩ pendingTag).turns.length = 0 ∧
    shows State.pend (runSteps 1 (withTag ⟨0, 0, 1⟩ pendingTag)) = some none := by decide

theorem witness_RegisterMapPlacesEveryLocation :
    1 < smallParams.maxTags ∧ 63 < smallParams.bufBytes ∧ 16383 < Params.largest.maxTags ∧
    65535 < Params.largest.bufBytes := by decide

theorem witness_CmdWriteIssues :
    (fresh smallParams).status.busy = false ∧ pendingTag.status.busy = true ∧ decode 7#32 = .illegal .opSeven ∧
    (issue 7#32 (fresh smallParams)).pend = some 7#32 := by decide

theorem witness_FlagsChangeOnlyAtIssueAndCompletion :
    step (withProgram [stmtWr .cmd 1#32] (fresh smallParams)) = .next (issue 1#32 (fresh smallParams)) ∧
    (issue 1#32 (fresh smallParams)).status ≠ (fresh smallParams).status ∧
    shows State.status (step (withTag badTag pendingTag)) = some ⟨false, false, 1#3⟩ ∧
    shows State.status (step (withProgram [.reset] { pendingTag with turns := [.host] })) = some ⟨false, false, 0#3⟩ :=
  ⟨rfl, by decide, by decide, by decide⟩

theorem witness_RegistersKeepDefinedFieldsOnly :
    (fresh smallParams).status.busy = false ∧ 1 < smallParams.maxTags ∧ 63 < smallParams.bufBytes ∧
    hostWrite 0x00008#18 0xFFFE0040#32 (fresh smallParams) = .next { fresh smallParams with ilen := 64#17 } ∧
    hostWrite 0x00024#18 0xFFFF0002#32 (fresh smallParams) = .next { fresh smallParams with vcount := 2#16 } ∧
    hostRead 0x00004#18 pendingTag = .next (recordRead 0x00004#18 1#32 pendingTag) ∧
    (0x80000004#32 : Word).extractLsb' 3 29 ≠ 0#29 := ⟨rfl, by decide, by decide, rfl, rfl, rfl, by decide⟩

theorem witness_LengthAndCountWritesAreBounded :
    (fresh smallParams).status.busy = false ∧ ((64#32 : Word).extractLsb' 0 17).toNat ≤ smallParams.bufBytes ∧
    smallParams.bufBytes < ((65#32 : Word).extractLsb' 0 17).toNat ∧
    ((2#32 : Word).extractLsb' 0 16).toNat ≤ smallParams.maxTags ∧
    smallParams.maxTags < ((3#32 : Word).extractLsb' 0 16).toNat := by decide

theorem witness_HostReadsOfNoValueFault :
    (fresh smallParams).status.busy = false ∧ (fresh smallParams).dstH = none ∧ (fresh smallParams).dstL = none ∧
    (fresh smallParams).srcH = none ∧ (fresh smallParams).srcL = none ∧ (fresh smallParams).etype = none ∧
    (fresh smallParams).tag = none ∧ Memory.read (fresh smallParams).vlan 1 = none ∧
    Memory.read (fresh smallParams).ibuf 63 = none ∧ Memory.read (fresh smallParams).obuf 63 = none := by decide

/-- The same statement's other clauses: each location with a value. -/
theorem witness_HostReadsOfNoValueFault_values :
    (withFrame tagged (fresh smallParams)).status.busy = false ∧
    (withFrame tagged (fresh smallParams)).dstH = some 0xFFFF#16 ∧
    (withFrame tagged (fresh smallParams)).dstL = some 0xFFFFFFFF#32 ∧
    (withFrame tagged (fresh smallParams)).srcH = some 0x0200#16 ∧ (withFrame tagged (fresh smallParams)).srcL = some 1#32 ∧
    (withFrame tagged (fresh smallParams)).etype = some 0x0800#16 ∧
    (withTag badTag (fresh smallParams)).tag = some badTag ∧
    Memory.read (withFrame tagged (fresh smallParams)).vlan 0 = some ⟨3, 0, 100⟩ ∧
    Memory.read ([(63, 0x60#8)] : List Host.Cell) 63 = some 0x60#8 := by decide

theorem witness_WrongAccessesAreRefused :
    (0xFC#18 : BusAddr).toNat < 0x100 ∧ 0x10000 ≤ (0x10000#18 : BusAddr).toNat ∧
    (0x1FFFC#18 : BusAddr).toNat < 0x20000 ∧ (0x1FFFC#18 : BusAddr).toNat % 4 = 0 ∧ (0x102#18 : BusAddr).toNat % 4 ≠ 0 ∧
    Width.w16 ≠ Width.w32 ∧ Width.w16 ≠ Width.w8 ∧ 0x20000 ≤ (0x20000#18 : BusAddr).toNat ∧
    (fresh smallParams).status.busy = false := by decide

theorem witness_UnmappedAddressesReadZero :
    (0x2C ≤ (0x2C#18 : BusAddr).toNat ∧ (0xFC#18 : BusAddr).toNat < 0x100) ∧ 0x100 ≤ (0x100#18 : BusAddr).toNat ∧
    (0xFFFC#18 : BusAddr).toNat < 0x10000 ∧ smallParams.maxTags ≤ ((0x10008#18 : BusAddr).toNat - 0x10000) / 4 ∧
    smallParams.bufBytes ≤ (0x20040#18 : BusAddr).toNat - 0x20000 ∧
    smallParams.bufBytes ≤ (0x3FFFF#18 : BusAddr).toNat - 0x30000 ∧ (fresh smallParams).status.busy = false := by decide

theorem witness_AccessesHaveNoOtherEffect :
    busRead .w32 0x00004#18 pendingTag = .next (recordRead 0x00004#18 1#32 pendingTag) ∧
    busWrite .w32 0x00000#18 1#32 (fresh smallParams) = .next pendingTag ∧
    busWrite .w8 0x20000#18 0x60#32 (fresh smallParams) = .next { fresh smallParams with ibuf := [(0, 0x60#8)] } :=
  ⟨rfl, rfl, rfl⟩

theorem witness_WritesWhileBusyFault :
    pendingTag.status.busy = true ∧ locate smallParams 0x00028#18 = .tag ∧ locate smallParams 0x10004#18 = .vlan 1 ∧
    locate smallParams 0x20000#18 = .ibuf 0 ∧ locate smallParams 0x3003F#18 = .obuf 63 := by decide +kernel

theorem witness_BusChoicesOfTheModel :
    0x100 ≤ (0x100#18 : BusAddr).toNat ∧ (0xFFFF#18 : BusAddr).toNat < 0x10000 ∧ legalAccess .w8 0x00010#18 = false ∧
    legalAccess .w8 0x20000#18 = true ∧ legalAccess .w32 0x00100#18 = true ∧ pendingTag.status.busy = true := by decide

/-- With VLAN_ENC pending ILEN is fixed and holds a value, SRC_L is fixed and holds none, OLEN is a result location. -/
theorem witness_ReadsWhileBusy :
    pendingTag.status.busy = true ∧ pendingTag.status.legal = true ∧ pendingTag.pend = some 1#32 ∧
    legalAccess .w32 0x00008#18 = true ∧ FixedWhilePending 1#32 (locate smallParams 0x00008#18) ∧
    readLocation pendingTag (locate smallParams 0x00008#18) = some 0#32 ∧
    legalAccess .w32 0x0001C#18 = true ∧ FixedWhilePending 1#32 (locate smallParams 0x0001C#18) ∧
    readLocation pendingTag (locate smallParams 0x0001C#18) = none ∧
    legalAccess .w32 0x0000C#18 = true ∧ ¬ FixedWhilePending 1#32 (locate smallParams 0x0000C#18) := by
  refine ⟨by decide, by decide, by decide, by decide, ?_, by decide, by decide, ?_, by decide, by decide, ?_⟩
  · exact .inr (.inr (.inl ⟨.inl (by decide), by decide, fun _ h => nomatch h⟩))
  · exact .inr (.inr (.inl ⟨.inl (by decide), by decide, fun _ h => nomatch h⟩))
  · have hd : decode 1#32 = .command .vlanEnc := by decide
    rintro (⟨y, h⟩ | ⟨h, -⟩ | ⟨-, h, -⟩ | ⟨h | h, -⟩)
    · rw [hd] at h; cases h
    · rw [hd] at h; cases h
    · exact h rfl
    · rw [hd] at h; cases h
    · rw [hd] at h; cases h

theorem witness_EveryStepKeepsTheInvariant :
    Inv (withInput [0x60] (fresh smallParams)) ∧
    step (withInput [0x60] (fresh smallParams)) = .next (withInput [0x60] (fresh smallParams)) :=
  ⟨inv_withInput _ _ (by decide) (by decide) (by decide) (by decide), rfl⟩

/-- The invariant's premise on the parameters is met at both ends of R3 and R4. -/
theorem witness_InvariantHoldsAtReset : smallParams.wf = true ∧ Params.largest.wf = true := by decide

end Sys2Proof.Tests
end

section
/-! PROOFS. The VTAG register format and the reserved bits of a register value (10_state.md R42, R43). -/

namespace Sys2Proof.Machine

/-- A bit of R42's word is the bit of the field that stands there, or 0 where none does. -/
theorem getLsbD_tagToVtag (t : VlanTag) {i : Nat} (hi : i < 32) :
    (tagToVtag t).getLsbD i =
      ((decide (24 ≤ i) && t.pri.getLsbD (i - 24)) || (decide (16 ≤ i) && t.dei.getLsbD (i - 16)) || t.vid.getLsbD i) := by
  have hge (k : Nat) : decide (k ≤ i) = !decide (i < k) := by rw [← decide_not, decide_eq_decide, Nat.not_lt]
  simp [tagToVtag, hi, hge]

/-- R42's word by its fields: the reserved bits stand as zeros between them. -/
theorem tagToVtag_eq_append (t : VlanTag) :
    tagToVtag t = 0#5 ++ t.pri ++ 0#7 ++ t.dei ++ 0#4 ++ t.vid := by
  apply BitVec.eq_of_getLsbD_eq
  intro i hi
  simp only [getLsbD_tagToVtag t hi, BitVec.getLsbD_append]
  interval_cases i <;> simp

theorem vtagToTag_tagToVtag (t : VlanTag) : vtagToTag (tagToVtag t) = t := by
  have hpri : (tagToVtag t).extractLsb' 24 3 = t.pri := by
    ext i hi
    rw [BitVec.getElem_extractLsb', getLsbD_tagToVtag t (by omega)]
    simp [BitVec.getLsbD_of_ge t.dei (24 + i - 16) (by omega), BitVec.getLsbD_of_ge t.vid (24 + i) (by omega), hi]
  have hdei : (tagToVtag t).extractLsb' 16 1 = t.dei := by
    ext i hi
    rw [BitVec.getElem_extractLsb', getLsbD_tagToVtag t (by omega)]
    simp [BitVec.getLsbD_of_ge t.vid (16 + i) (by omega), hi, show ¬ 24 ≤ 16 + i by omega]
  have hvid : (tagToVtag t).extractLsb' 0 12 = t.vid := by
    ext i hi
    rw [BitVec.getElem_extractLsb', getLsbD_tagToVtag t (by omega)]
    simp [hi, show ¬ 24 ≤ i by omega, show ¬ 16 ≤ i by omega]
  rw [vtagToTag, hpri, hdei, hvid]

/-- A word taken into a tag and back keeps exactly the defined bits of the VTAG format (R42, R43). -/
theorem tagToVtag_vtagToTag (w : Word) : tagToVtag (vtagToTag w) = w &&& 0x07010FFF#32 := by
  apply BitVec.eq_of_getLsbD_eq
  intro i hi
  simp only [getLsbD_tagToVtag _ hi, vtagToTag, BitVec.getLsbD_extractLsb', BitVec.getLsbD_and]
  interval_cases i <;> simp

theorem tagToVtag_and_defined (t : VlanTag) : tagToVtag t &&& 0x07010FFF#32 = tagToVtag t := by
  rw [← tagToVtag_vtagToTag, vtagToTag_tagToVtag]

/-- Settles O6: the fields by their place in the word, then the two round trips. -/
theorem vtagFormatRoundTrip : Obligations.VtagFormatRoundTrip :=
  ⟨fun _ => rfl, tagToVtag_eq_append, vtagToTag_tagToVtag, fun w hw => (tagToVtag_vtagToTag w).trans hw⟩

/-- A field of `n` bits read as a word has no bit above them. -/
theorem zeroExtend_and_ones {n : Nat} (x : BitVec n) :
    x.zeroExtend 32 &&& (BitVec.allOnes n).zeroExtend 32 = x.zeroExtend 32 := by
  rw [← BitVec.setWidth_and, BitVec.and_allOnes]

/-- The low `n` bits of a word, read back as a word, are the word masked to them. -/
theorem zeroExtend_extractLsb'_low (n : Nat) (w : Word) :
    (w.extractLsb' 0 n).zeroExtend 32 = w &&& (BitVec.allOnes n).zeroExtend 32 := by
  ext i hi
  by_cases h : i < n <;> simp [BitVec.getElem_setWidth, BitVec.getLsbD_extractLsb', h, hi]

/-- Bits outside a mask that a word is confined to are 0. -/
theorem and_eq_zero_of_confined {v mask reserved : Word} (hv : v &&& mask = v) (hm : mask &&& reserved = 0#32) :
    v &&& reserved = 0#32 := by
  rw [← hv, BitVec.and_assoc, hm, BitVec.and_zero]

theorem Status.word_and_definedBits (st : Status) : st.word &&& definedBits .status = st.word := by
  obtain ⟨busy, ok, err⟩ := st
  revert busy ok err
  decide

end Sys2Proof.Machine
end

section
/-! PROOFS. Where the registers stand on the bus, and which accesses reach them (20_memory.md R50, R51). -/

namespace Sys2Proof.Machine

@[simp] theorem locate_cmd (p : Params) : locate p 0x00000#18 = .cmd := rfl
@[simp] theorem locate_status (p : Params) : locate p 0x00004#18 = .status := rfl
@[simp] theorem locate_ilen (p : Params) : locate p 0x00008#18 = .ilen := rfl
@[simp] theorem locate_olen (p : Params) : locate p 0x0000C#18 = .olen := rfl
@[simp] theorem locate_dstH (p : Params) : locate p 0x00010#18 = .dstH := rfl
@[simp] theorem locate_dstL (p : Params) : locate p 0x00014#18 = .dstL := rfl
@[simp] theorem locate_srcH (p : Params) : locate p 0x00018#18 = .srcH := rfl
@[simp] theorem locate_srcL (p : Params) : locate p 0x0001C#18 = .srcL := rfl
@[simp] theorem locate_etype (p : Params) : locate p 0x00020#18 = .etype := rfl
@[simp] theorem locate_vcount (p : Params) : locate p 0x00024#18 = .vcount := rfl
@[simp] theorem locate_tag (p : Params) : locate p 0x00028#18 = .tag := rfl

theorem windowOf_tagArray {a : BusAddr} (hlo : 0x10000 ≤ a.toNat) (hhi : a.toNat < 0x20000) :
    windowOf a = .tagArray := by
  simp [windowOf, hhi, show ¬ a.toNat < 0x100 by omega, show ¬ a.toNat < 0x10000 by omega]

theorem windowOf_inputBuffer {a : BusAddr} (hlo : 0x20000 ≤ a.toNat) (hhi : a.toNat < 0x30000) :
    windowOf a = .inputBuffer := by
  simp [windowOf, hhi, show ¬ a.toNat < 0x100 by omega, show ¬ a.toNat < 0x10000 by omega,
    show ¬ a.toNat < 0x20000 by omega]

/-- The tag array's window holds entries of the array and nothing else (R41, R52). -/
theorem locate_of_tagArray (p : Params) {a : BusAddr} (hlo : 0x10000 ≤ a.toNat) (hhi : a.toNat < 0x20000) :
    (∃ j, locate p a = .vlan j) ∨ locate p a = .unmapped := by
  simp only [locate, windowOf_tagArray hlo hhi]
  split
  · exact .inl ⟨_, rfl⟩
  · exact .inr rfl

theorem legalAccess_vlan {j : Nat} (hj : j < 16384) :
    legalAccess .w32 (BitVec.ofNat 18 (0x10000 + 4 * j)) = true := by
  have ha : (BitVec.ofNat 18 (0x10000 + 4 * j)).toNat = 0x10000 + 4 * j := by rw [BitVec.toNat_ofNat]; omega
  have hw : windowOf (BitVec.ofNat 18 (0x10000 + 4 * j)) = .tagArray := windowOf_tagArray (by omega) (by omega)
  have h4 : (0x10000 + 4 * j) % 4 = 0 := by omega
  simp only [legalAccess, hw, ha, h4]
  rfl

theorem legalAccess_ibuf {k : Nat} (hk : k < 65536) : legalAccess .w8 (BitVec.ofNat 18 (0x20000 + k)) = true := by
  have ha : (BitVec.ofNat 18 (0x20000 + k)).toNat = 0x20000 + k := by rw [BitVec.toNat_ofNat]; omega
  have hw : windowOf (BitVec.ofNat 18 (0x20000 + k)) = .inputBuffer := windowOf_inputBuffer (by omega) (by omega)
  simp only [legalAccess, hw]
  rfl

theorem registerAt_eq_cmd {n : Nat} (h : registerAt n = .cmd) : n = 0 := by
  unfold registerAt at h
  split at h
  · rfl
  all_goals cases h

/-- CMD stands at address 0 and nowhere else (R30). -/
theorem locate_eq_cmd_iff {p : Params} {a : BusAddr} : locate p a = .cmd ↔ a = 0x00000#18 := by
  constructor
  · intro h
    unfold locate at h
    cases hw : windowOf a <;> simp only [hw] at h
    case registers => exact BitVec.eq_of_toNat_eq (registerAt_eq_cmd h)
    case gap => cases h
    all_goals split at h <;> cases h
  · rintro rfl; rfl

/-- CMD is reached by 32-bit accesses only (R51). -/
theorem legalAccess_cmd_iff {w : Width} : legalAccess w 0x00000#18 = true ↔ w = .w32 := by
  cases w <;> decide

end Sys2Proof.Machine
end

section
/-! PROOFS. What the host's writes store and what its reads return (10_state.md R31, R43). -/

namespace Sys2Proof.Machine

open Sys2Proof.Safety

/-- No command lists CMD among its results (R241). -/
@[simp] theorem pendingMayWrite_cmd (s : State) : pendingMayWrite s .cmd = false := by
  unfold pendingMayWrite
  split
  · rfl
  · split
    · rename_i i _; cases i <;> rfl
    · rfl

/-- An illegal pending word completes as IllegalCommand (R201). -/
theorem blockMove_of_illegal {s : State} {w : Word} {why : IllegalWord} (hp : s.pend = some w)
    (hd : decode w = .illegal why) : blockMove s = .next (completeErr .illegalCommand s) := by
  simp [blockMove, hp, hd]

/-- Settles O47: CMD's write issues or is a hazard by BUSY, and its read returns 0 whatever is pending. -/
theorem cmdWriteIssues : Obligations.CmdWriteIssues := by
  intro s w
  have hl : legalAccess .w32 0x00000#18 = true := legalAccess_cmd_iff.2 rfl
  refine ⟨fun hb => ?idle, fun hb => ?busy, ?read, fun why hd hp => blockMove_of_illegal hp hd⟩
  case idle => exact busWrite_of_idle hl hb
  case busy => simp [hostWrite, busAccess, busWrite, hl, hb]
  case read => exact busRead_of_value hl (.inr (by simp)) rfl

/-- The registers and buffer bytes that keep what a host writes to them (R43, R52); CMD issues instead (R31). -/
def keepsHostWrites : Location → Bool
  | .ilen | .dstH | .dstL | .srcH | .srcL | .etype | .vcount | .tag | .vlan _ | .ibuf _ => true
  | .cmd | .status | .olen | .obuf _ | .unmapped => false

/-- A write of such a location leaves STATUS and the parameters, and stores the defined bits of the value (R43). -/
theorem writeLocation_keeps {l : Location} {d : Word} {s t : State} (hk : keepsHostWrites l = true)
    (h : writeLocation l d s = .next t) :
    t.status = s.status ∧ t.params = s.params ∧ readLocation t l = some (d &&& definedBits l) := by
  obtain ⟨rfl, -⟩ | ⟨rfl, -, rfl⟩ | ⟨rfl, rfl⟩ | ⟨rfl, rfl⟩ | ⟨rfl, rfl⟩ | ⟨rfl, rfl⟩ | ⟨rfl, rfl⟩ | ⟨rfl, -, rfl⟩ |
    ⟨rfl, rfl⟩ | ⟨j, rfl, rfl⟩ | ⟨k, rfl, rfl⟩ | ⟨hro, -⟩ := writeLocation_next h
  · cases hk
  · exact ⟨rfl, rfl, congrArg some (zeroExtend_extractLsb'_low 17 d)⟩
  · exact ⟨rfl, rfl, congrArg some (zeroExtend_extractLsb'_low 16 d)⟩
  · exact ⟨rfl, rfl, congrArg some BitVec.and_allOnes.symm⟩
  · exact ⟨rfl, rfl, congrArg some (zeroExtend_extractLsb'_low 16 d)⟩
  · exact ⟨rfl, rfl, congrArg some BitVec.and_allOnes.symm⟩
  · exact ⟨rfl, rfl, congrArg some (zeroExtend_extractLsb'_low 16 d)⟩
  · exact ⟨rfl, rfl, congrArg some (zeroExtend_extractLsb'_low 16 d)⟩
  · exact ⟨rfl, rfl, congrArg some (tagToVtag_vtagToTag d)⟩
  · refine ⟨rfl, rfl, ?_⟩
    simp only [readLocation, Memory.read_write_same, Option.map_some]
    exact congrArg some (tagToVtag_vtagToTag d)
  · refine ⟨rfl, rfl, ?_⟩
    simp only [readLocation, Memory.read_write_same, Option.map_some]
    exact congrArg some (zeroExtend_extractLsb'_low 8 d)
  · obtain rfl | rfl | ⟨k, rfl⟩ | rfl := hro <;> cases hk

/-- While idle, a write of a location that keeps it reads back as the value's defined bits (R43). -/
theorem busRead_of_busWrite {w : Width} {a : BusAddr} {d : Word} {s t : State}
    (hk : keepsHostWrites (locate s.params a) = true) (h : busWrite w a d s = .next t) :
    busRead w a t = .next (recordRead a (d &&& definedBits (locate s.params a)) t) := by
  obtain ⟨hl, hb, hw⟩ := busWrite_next h
  obtain ⟨hst, hp, hv⟩ := writeLocation_keeps hk hw
  rw [← hp] at hv ⊢
  exact busRead_of_value hl (.inl (hst ▸ hb)) hv

/-- An accepted write of such a location at a legal address, and the read that follows it. -/
theorem busWrite_then_busRead (w : Width) {a : BusAddr} {l : Location} {d v : Word} {s t : State}
    (hb : s.status.busy = false) (hl : legalAccess w a = true) (ha : locate s.params a = l)
    (hk : keepsHostWrites l = true) (hw : writeLocation l d s = .next t) (hv : d &&& definedBits l = v) :
    busWrite w a d s = .next t ∧ busRead w a t = .next (recordRead a v t) := by
  subst ha hv
  rw [← busWrite_of_idle hl hb] at hw
  exact ⟨hw, busRead_of_busWrite hk hw⟩

/-- What a location reads as has no reserved bit (R43). -/
theorem readLocation_and_definedBits {s : State} {l : Location} {v : Word} (h : readLocation s l = some v) :
    v &&& definedBits l = v := by
  cases l with
  | cmd | unmapped => cases h; rfl
  | status => cases h; exact Status.word_and_definedBits _
  | ilen | olen | vcount => cases h; exact zeroExtend_and_ones _
  | dstL | srcL => exact BitVec.and_allOnes
  | dstH | srcH | etype | ibuf | obuf =>
    obtain ⟨x, -, rfl⟩ := Option.map_eq_some_iff.1 h
    exact zeroExtend_and_ones x
  | tag | vlan =>
    obtain ⟨g, -, rfl⟩ := Option.map_eq_some_iff.1 h
    exact tagToVtag_and_defined g

theorem freeRead_and_definedBits (s : State) (a : BusAddr) (l : Location) :
    freeRead s a l &&& definedBits l = freeRead s a l := by
  rw [freeRead, BitVec.and_assoc, BitVec.and_self]

/-- A state records one value for one read. -/
theorem recordRead_inj {a : BusAddr} {v v' : Word} {s : State} (h : recordRead a v s = recordRead a v' s) : v = v' := by
  simpa using congrArg State.reads h

/-- Whatever a host reads, in any state, has no reserved bit of its location, a free draw included (R43, R241). -/
theorem busRead_and_definedBits {w : Width} {a : BusAddr} {v : Word} {s : State}
    (h : busRead w a s = .next (recordRead a v s)) : v &&& definedBits (locate s.params a) = v := by
  unfold busRead at h
  split at h
  · cases h
  · split at h
    · rw [← recordRead_inj (Host.Outcome.next.inj h)]
      exact freeRead_and_definedBits s a _
    · split at h
      · rename_i u hu
        rw [← recordRead_inj (Host.Outcome.next.inj h)]
        exact readLocation_and_definedBits hu
      · cases h

/-- A bit outside a location's defined ones reads 0. -/
theorem hostRead_reserved {a : BusAddr} {l : Location} {v reserved : Word} {s : State}
    (h : hostRead a s = .next (recordRead a v s)) (ha : locate s.params a = l)
    (hm : definedBits l &&& reserved = 0#32) : v &&& reserved = 0#32 := by
  subst ha
  exact and_eq_zero_of_confined (busRead_and_definedBits h) hm

/-- A nonzero bit in [31:3] makes a word an illegal command (R89). -/
theorem decode_of_highBits {w : Word} (h : w.extractLsb' 3 29 ≠ 0#29) : decode w = .illegal .highBits :=
  if_neg h

/-- Settles O50: write and read back by location, the reserved bits of every read, and CMD's exception. -/
theorem registersKeepDefinedFieldsOnly : Obligations.RegistersKeepDefinedFieldsOnly := by
  refine ⟨fun s d hb => ⟨?low32, ?half, ?tag, ?vlan, ?ibuf, fun t h => ?ilen, fun t h => ?vcount⟩,
    fun s a v h => ⟨?status, ?lengths, ?halves, ?tags⟩, fun w hw => ⟨_, decode_of_highBits hw⟩⟩
  case low32 =>
    rintro a (rfl | rfl)
    · exact ⟨_, busWrite_then_busRead .w32 hb rfl (locate_dstL _) rfl rfl BitVec.and_allOnes⟩
    · exact ⟨_, busWrite_then_busRead .w32 hb rfl (locate_srcL _) rfl rfl BitVec.and_allOnes⟩
  case half =>
    rintro a (rfl | rfl | rfl)
    · exact ⟨_, busWrite_then_busRead .w32 hb rfl (locate_dstH _) rfl rfl rfl⟩
    · exact ⟨_, busWrite_then_busRead .w32 hb rfl (locate_srcH _) rfl rfl rfl⟩
    · exact ⟨_, busWrite_then_busRead .w32 hb rfl (locate_etype _) rfl rfl rfl⟩
  case tag => exact ⟨_, busWrite_then_busRead .w32 hb rfl (locate_tag _) rfl rfl rfl⟩
  case vlan =>
    intro j hj hj'
    exact ⟨_, busWrite_then_busRead .w32 hb (legalAccess_vlan hj') (locate_vlan hj hj') rfl rfl rfl⟩
  case ibuf =>
    intro k b hk hk'
    exact ⟨_, busWrite_then_busRead .w8 hb (legalAccess_ibuf hk') (locate_ibuf hk hk') rfl rfl (zeroExtend_and_ones b)⟩
  case ilen => exact busRead_of_busWrite (w := .w32) (a := 0x00008#18) rfl h
  case vcount => exact busRead_of_busWrite (w := .w32) (a := 0x00024#18) rfl h
  case status =>
    rintro rfl
    exact hostRead_reserved h (locate_status _) (by decide)
  case lengths =>
    rintro (rfl | rfl)
    · exact hostRead_reserved h (locate_ilen _) (by decide)
    · exact hostRead_reserved h (locate_olen _) (by decide)
  case halves =>
    rintro (rfl | rfl | rfl | rfl)
    · exact hostRead_reserved h (locate_dstH _) (by decide)
    · exact hostRead_reserved h (locate_srcH _) (by decide)
    · exact hostRead_reserved h (locate_etype _) (by decide)
    · exact hostRead_reserved h (locate_vcount _) (by decide)
  case tags =>
    rintro (rfl | ⟨hlo, hhi⟩)
    · exact hostRead_reserved h (locate_tag _) (by decide)
    · obtain ⟨j, hj⟩ | hu := locate_of_tagArray s.params hlo hhi
      · exact hostRead_reserved h hj (by simp [definedBits])
      · exact hostRead_reserved h hu (by decide)

end Sys2Proof.Machine
end

section
/-! PROOFS. The flags: what changes STATUS, and that no command reads it (10_state.md R28). -/

namespace Sys2Proof.Machine

open Sys2Proof.Safety

/-- Only an error reports a nonzero code, so OK and ERR of a completion agree (R200, R205). -/
theorem CmdError.code_ne_zero (e : CmdError) : e.code ≠ 0#3 := by
  cases e with
  | core k => cases k <;> decide
  | illegalCommand => decide

/-- What a completed command leaves in PEND and STATUS (R205, R206). -/
def Completed (t : State) : Prop :=
  t.pend = none ∧ t.status.busy = false ∧ (t.status.ok = true ↔ t.status.err = 0#3)

theorem completed_completeOk (s : State) : Completed (completeOk s) :=
  ⟨rfl, rfl, by simp [Status.succeeded]⟩

theorem completed_completeErr (e : CmdError) (s : State) : Completed (completeErr e s) :=
  ⟨rfl, rfl, by simp [Status.failed, CmdError.code_ne_zero]⟩

theorem completed_complete {α : Type} (writes : α → State → State) (r : Result α) (s : State) :
    Completed (complete writes r s) := by
  cases r with
  | ok v => exact completed_completeOk (writes v s)
  | err e => exact completed_completeErr (.core e) s

theorem completed_of_exec {i : Instr} {s t : State} (h : exec i s = .next t) : Completed t := by
  obtain ⟨r, rfl⟩ | ⟨r, rfl⟩ | ⟨r, rfl⟩ := exec_next_cases h <;> exact completed_complete _ r s

/-- A move of the block does nothing or completes the pending command. -/
theorem blockMove_completes {s t : State} (h : blockMove s = .next t) :
    t = s ∨ (s.pend.isSome = true ∧ Completed t) := by
  obtain ⟨-, rfl⟩ | ⟨w, i, hp, -, he⟩ | ⟨w, why, hp, -, rfl⟩ := blockMove_next h
  · exact .inl rfl
  · exact .inr ⟨by simp [hp], completed_of_exec he⟩
  · exact .inr ⟨by simp [hp], completed_completeErr _ s⟩

/-- The one host write that changes STATUS is a write of CMD (R28). -/
theorem writeLocation_status {l : Location} {d : Word} {s t : State} (h : writeLocation l d s = .next t) :
    t.status = s.status ∨ (l = .cmd ∧ t = issue d s) := by
  obtain ⟨rfl, rfl⟩ | ⟨-, -, rfl⟩ | ⟨-, rfl⟩ | ⟨-, rfl⟩ | ⟨-, rfl⟩ | ⟨-, rfl⟩ | ⟨-, rfl⟩ | ⟨-, -, rfl⟩ |
    ⟨-, rfl⟩ | ⟨j, -, rfl⟩ | ⟨k, -, rfl⟩ | ⟨-, rfl⟩ := writeLocation_next h
  case inl => exact .inr ⟨rfl, rfl⟩
  all_goals exact .inl rfl

/-- The one bus access that changes STATUS is a 32-bit write of CMD while idle, which issues (R28, R31). -/
theorem busAccess_status {acc : BusAccess} {s t : State} (h : busAccess acc s = .next t) :
    t.status = s.status ∨ (s.status.busy = false ∧ ∃ d, acc = .write .w32 0x00000#18 d ∧ t = issue d s) := by
  cases acc with
  | read w a =>
    obtain ⟨v, rfl⟩ := busRead_next h
    exact .inl rfl
  | write w a d =>
    obtain ⟨hl, hb, hw⟩ := busWrite_next h
    obtain hst | ⟨hc, rfl⟩ := writeLocation_status hw
    · exact .inl hst
    · obtain rfl := locate_eq_cmd_iff.1 hc
      obtain rfl := legalAccess_cmd_iff.1 hl
      exact .inr ⟨hb, d, rfl, rfl⟩

/-- A move of the host leaves STATUS unless it issues a command or is the reset input (R28, R230). -/
theorem hostMove_status {s t : State} (h : hostMove s = .next t) :
    t.status = s.status ∨
    (s.status.busy = false ∧ t.status = Status.issued ∧
      ∃ d rest, s.program = .access (.write .w32 0x00000#18 d) :: rest ∧ t.pend = some d) ∨
    (t.status = { busy := false, ok := false, err := 0#3 } ∧ ∃ rest, s.program = .reset :: rest) := by
  obtain ⟨-, rfl⟩ | ⟨acc, rest, hp, ha⟩ | ⟨rest, hp, rfl⟩ | ⟨rest, v, -, rfl⟩ := hostMove_next h
  · exact .inl rfl
  · obtain hst | ⟨hb, d, rfl, rfl⟩ := busAccess_status ha
    · exact .inl hst
    · exact .inr (.inl ⟨hb, rfl, d, rest, hp, rfl⟩)
  · exact .inr (.inr ⟨rfl, rest, hp⟩)
  · refine .inl ?_
    rw [recordRead_status]
    split <;> rfl

/-- A completion overwrites STATUS, so it hides the STATUS it found, for writes that leave STATUS out. -/
theorem complete_ignores_status {α : Type} {writes : α → State → State} {st : Status}
    (hw : ∀ v s, writes v { s with status := st } = { writes v s with status := st }) (r : Result α) (s : State) :
    complete writes r { s with status := st } = complete writes r s := by
  cases r with
  | ok v => simp only [complete_ok, completeOk, hw]
  | err e => rfl

theorem encodeCommand_ignores_status (trailer : Nat) (core : Frame → Result Bytes) (s : State) (st : Status) :
    encodeCommand trailer core { s with status := st } = encodeCommand trailer core s := by
  have hf : frameOperand { s with status := st } = frameOperand s := rfl
  have hl : encodedLength trailer { s with status := st } = encodedLength trailer s := rfl
  simp only [encodeCommand, hf, hl, complete_ignores_status (writes := writeOutput) fun _ _ => rfl]

theorem decodeCommand_ignores_status (core : Bytes → Result Frame) (s : State) (st : Status) :
    decodeCommand core { s with status := st } = decodeCommand core s := by
  have hi : inputBytes { s with status := st } = inputBytes s := rfl
  simp only [decodeCommand, hi, complete_ignores_status (writes := writeFrame) fun _ _ => rfl]

/-- No command reads STATUS (R28). -/
theorem exec_ignores_status (i : Instr) (s : State) (st : Status) : exec i { s with status := st } = exec i s := by
  cases i with
  | vlanEnc =>
    simp only [exec, execVlanEnc, complete_ignores_status (writes := writeOutput) fun _ _ => rfl]
  | vlanDec =>
    have hi : inputBytes { s with status := st } = inputBytes s := rfl
    simp only [exec, execVlanDec, hi, complete_ignores_status (writes := writeTag) fun _ _ => rfl]
  | frmEnc => exact encodeCommand_ignores_status 0 frameEncode s st
  | frmDec => exact decodeCommand_ignores_status frameDecode s st
  | frmEncFcs => exact encodeCommand_ignores_status 4 frameEncodeFcs s st
  | frmDecFcs => exact decodeCommand_ignores_status frameDecodeFcs s st

/-- Settles O49: by the agent whose move the step is. -/
theorem flagsChangeOnlyAtIssueAndCompletion : Obligations.FlagsChangeOnlyAtIssueAndCompletion := by
  refine ⟨fun s t h hne => ?_, exec_ignores_status, fun _ => rfl⟩
  obtain ⟨-, hblock⟩ | ⟨-, hhost⟩ := step_next h
  · obtain rfl | hcompletion := blockMove_completes hblock
    · exact absurd rfl hne
    · exact .inr (.inl hcompletion)
  · obtain hst | hissue | hreset := hostMove_status hhost
    · exact absurd hst hne
    · exact .inl hissue
    · exact .inr (.inr hreset)

end Sys2Proof.Machine
end

section
/-! PROOFS. Which bus accesses are legal, and that no other cause refuses one as BadAccess (20_memory.md R51). -/

namespace Sys2Proof.Machine

theorem windowOf_registers {a : BusAddr} (h : a.toNat < 0x100) : windowOf a = .registers := if_pos h

theorem windowOf_gap {a : BusAddr} (hlo : 0x100 ≤ a.toNat) (hhi : a.toNat < 0x10000) : windowOf a = .gap := by
  simp [windowOf, hhi, show ¬ a.toNat < 0x100 by omega]

theorem windowOf_outputBuffer {a : BusAddr} (h : 0x30000 ≤ a.toNat) : windowOf a = .outputBuffer := by
  simp [windowOf, show ¬ a.toNat < 0x100 by omega, show ¬ a.toNat < 0x10000 by omega,
    show ¬ a.toNat < 0x20000 by omega, show ¬ a.toNat < 0x30000 by omega]

/-- Below the buffers the legal access is 32 bits wide at a multiple of 4 (R51; between the windows log entry 9). -/
theorem legalAccess_below_buffers_iff {w : Width} {a : BusAddr} (h : a.toNat < 0x20000) :
    legalAccess w a = true ↔ w = .w32 ∧ a.toNat % 4 = 0 := by
  unfold legalAccess
  obtain hr | hr := Nat.lt_or_ge a.toNat 0x100
  · simp [windowOf_registers hr]
  obtain hg | hg := Nat.lt_or_ge a.toNat 0x10000
  · simp [windowOf_gap hr hg]
  · simp [windowOf_tagArray hg h]

/-- In the buffers the legal access is 8 bits wide (R51). -/
theorem legalAccess_buffers_iff {w : Width} {a : BusAddr} (h : 0x20000 ≤ a.toNat) :
    legalAccess w a = true ↔ w = .w8 := by
  unfold legalAccess
  obtain hi | hi := Nat.lt_or_ge a.toNat 0x30000
  · simp [windowOf_inputBuffer h hi]
  · simp [windowOf_outputBuffer hi]

/-- The one refusal of a write to a location is of an illegal value (R33, R39). -/
theorem writeLocation_refused {l : Location} {d : Word} {s : State} {r : Refusal}
    (h : writeLocation l d s = .refused r) : r = .illegalValue := by
  cases l with
  | ilen | vcount =>
    simp only [writeLocation] at h
    split at h
    · cases h
    · exact (Host.Outcome.refused.inj h).symm
  | _ => cases h

/-- A read is refused BadAccess exactly when its width or alignment is wrong (R51). -/
theorem busRead_eq_badAccess_iff {w : Width} {a : BusAddr} {s : State} :
    busRead w a s = .refused .badAccess ↔ ¬ legalAccess w a = true := by
  constructor
  · intro h hl
    simp only [busRead, hl, Bool.not_true, Bool.false_eq_true, if_false] at h
    split at h
    · cases h
    · split at h <;> cases h
  · intro hl
    simp [busRead, hl]

/-- A write, of an idle or a busy block, is refused BadAccess exactly when its width or alignment is wrong (R51). -/
theorem busWrite_eq_badAccess_iff {w : Width} {a : BusAddr} {d : Word} {s : State} :
    busWrite w a d s = .refused .badAccess ↔ ¬ legalAccess w a = true := by
  constructor
  · intro h hl
    simp only [busWrite, hl, Bool.not_true, Bool.false_eq_true, if_false] at h
    split at h
    · cases h
    · cases writeLocation_refused h
  · intro hl
    simp [busWrite, hl]

/-- Settles O53: BadAccess is the answer to exactly the accesses that are not legal, and each window says which are. -/
theorem wrongAccessesAreRefused : Obligations.WrongAccessesAreRefused := by
  intro s w a d
  simp only [ne_eq, busRead_eq_badAccess_iff, busWrite_eq_badAccess_iff, not_not]
  refine ⟨fun ha => ⟨fun hw => ?wrong, fun _ hw h4 => ?right⟩, fun ha => ⟨fun hw => ?wrongByte, fun hw => ?rightByte⟩⟩
  case wrong =>
    rw [legalAccess_below_buffers_iff ha, not_and_or]
    exact ⟨hw, fun _ => hw⟩
  case right =>
    rw [legalAccess_below_buffers_iff ha]
    exact ⟨⟨hw, h4⟩, fun _ => ⟨hw, h4⟩⟩
  case wrongByte =>
    rw [legalAccess_buffers_iff ha]
    exact ⟨hw, fun _ => hw⟩
  case rightByte =>
    rw [legalAccess_buffers_iff ha]
    exact ⟨hw, fun _ => hw⟩

end Sys2Proof.Machine
end

section
/-! PROOFS. The addresses that no location occupies, and the locations that ignore writes (20_memory.md R52). -/

namespace Sys2Proof.Machine

/-- Above TAG no register stands in the register window (R30). -/
theorem registerAt_of_ge {n : Nat} (h : 0x2C ≤ n) : registerAt n = .unmapped := by
  unfold registerAt
  split
  case h_12 => rfl
  all_goals omega

theorem locate_of_registers_ge (p : Params) {a : BusAddr} (hlo : 0x2C ≤ a.toNat) (hhi : a.toNat < 0x100) :
    locate p a = .unmapped := by
  simp only [locate, windowOf_registers hhi, registerAt_of_ge hlo]

theorem locate_of_gap (p : Params) {a : BusAddr} (hlo : 0x100 ≤ a.toNat) (hhi : a.toNat < 0x10000) :
    locate p a = .unmapped := by
  simp only [locate, windowOf_gap hlo hhi]

theorem locate_of_tagArray_ge {p : Params} {a : BusAddr} (hlo : 0x10000 ≤ a.toNat) (hhi : a.toNat < 0x20000)
    (h : p.maxTags ≤ (a.toNat - 0x10000) / 4) : locate p a = .unmapped := by
  simp only [locate, windowOf_tagArray hlo hhi, if_neg (Nat.not_lt.2 h)]

theorem locate_of_inputBuffer_ge {p : Params} {a : BusAddr} (hlo : 0x20000 ≤ a.toNat) (hhi : a.toNat < 0x30000)
    (h : p.bufBytes ≤ a.toNat - 0x20000) : locate p a = .unmapped := by
  simp only [locate, windowOf_inputBuffer hlo hhi, if_neg (Nat.not_lt.2 h)]

theorem locate_of_outputBuffer_ge {p : Params} {a : BusAddr} (hlo : 0x30000 ≤ a.toNat)
    (h : p.bufBytes ≤ a.toNat - 0x30000) : locate p a = .unmapped := by
  simp only [locate, windowOf_outputBuffer hlo, if_neg (Nat.not_lt.2 h)]

/-- OBUF's window holds bytes of OBUF and nothing else (R36, R52). -/
theorem locate_of_outputBuffer (p : Params) {a : BusAddr} (h : 0x30000 ≤ a.toNat) :
    (∃ k, locate p a = .obuf k) ∨ locate p a = .unmapped := by
  simp only [locate, windowOf_outputBuffer h]
  split
  · exact .inl ⟨_, rfl⟩
  · exact .inr rfl

/-- What no command lists among its results, no pending word may write (R241). -/
theorem pendingMayWrite_eq_false {l : Location} (h : ∀ i, resultLocation i l = false) (s : State) :
    pendingMayWrite s l = false := by
  unfold pendingMayWrite
  split
  · rfl
  · split
    · exact h _
    · rfl

@[simp] theorem pendingMayWrite_unmapped (s : State) : pendingMayWrite s .unmapped = false :=
  pendingMayWrite_eq_false (fun i => by cases i <;> rfl) s

/-- A legal read of an unoccupied address returns 0, whatever is pending (R52). -/
theorem busRead_of_unmapped {w : Width} {a : BusAddr} {s : State} (hl : legalAccess w a = true)
    (hu : locate s.params a = .unmapped) : busRead w a s = .next (recordRead a 0#32 s) :=
  busRead_of_value hl (.inr (by rw [hu]; exact pendingMayWrite_unmapped s)) (by rw [hu]; rfl)

/-- The locations, and the unoccupied addresses, that ignore a host's write (R52). -/
def ignoresWrites : Location → Bool
  | .status | .olen | .obuf _ | .unmapped => true
  | _ => false

theorem writeLocation_of_ignoresWrites {l : Location} (h : ignoresWrites l = true) (d : Word) (s : State) :
    writeLocation l d s = .next s := by
  cases l with
  | status | olen | obuf | unmapped => rfl
  | _ => cases h

/-- A legal write while idle, of what ignores writes, changes nothing (R52). -/
theorem busWrite_of_ignoresWrites {w : Width} {a : BusAddr} {s : State} (hl : legalAccess w a = true)
    (hi : ignoresWrites (locate s.params a) = true) (hb : s.status.busy = false) (d : Word) :
    busWrite w a d s = .next s :=
  (busWrite_of_idle hl hb).trans (writeLocation_of_ignoresWrites hi d s)

/-- Settles O54: each listed address is unmapped and its access legal; STATUS, OLEN and OBUF ignore writes. -/
theorem unmappedAddressesReadZero : Obligations.UnmappedAddressesReadZero := by
  intro s w a d
  refine ⟨fun h => ?unmapped, fun hb => ⟨?status, ?olen, fun ha => ?obuf⟩, ?cmd⟩
  case unmapped =>
    have hlu : legalAccess w a = true ∧ locate s.params a = .unmapped := by
      obtain ⟨hlo, hhi, h4, hw⟩ | ⟨hlo, hhi, h4, hw⟩ | ⟨hlo, hhi, h4, hw, hn⟩ | ⟨hlo, hhi, hw, hn⟩ | ⟨hlo, hw, hn⟩ := h
      · exact ⟨(legalAccess_below_buffers_iff (by omega)).2 ⟨hw, h4⟩, locate_of_registers_ge _ hlo hhi⟩
      · exact ⟨(legalAccess_below_buffers_iff (by omega)).2 ⟨hw, h4⟩, locate_of_gap _ hlo hhi⟩
      · exact ⟨(legalAccess_below_buffers_iff hhi).2 ⟨hw, h4⟩, locate_of_tagArray_ge hlo hhi hn⟩
      · exact ⟨(legalAccess_buffers_iff hlo).2 hw, locate_of_inputBuffer_ge hlo hhi hn⟩
      · exact ⟨(legalAccess_buffers_iff (by omega)).2 hw, locate_of_outputBuffer_ge hlo hn⟩
    obtain ⟨hl, hu⟩ := hlu
    exact ⟨busRead_of_unmapped hl hu, fun hb => busWrite_of_ignoresWrites hl (by rw [hu]; rfl) hb d⟩
  case status => exact busWrite_of_ignoresWrites (w := .w32) (a := 0x00004#18) rfl rfl hb d
  case olen => exact busWrite_of_ignoresWrites (w := .w32) (a := 0x0000C#18) rfl rfl hb d
  case obuf =>
    have hl : legalAccess .w8 a = true := (legalAccess_buffers_iff (by omega)).2 rfl
    refine busWrite_of_ignoresWrites hl ?_ hb d
    obtain ⟨k, hk⟩ | hu := locate_of_outputBuffer s.params ha
    · rw [hk]; rfl
    · rw [hu]; rfl
  case cmd => exact busRead_of_value (legalAccess_cmd_iff.2 rfl) (.inr (pendingMayWrite_cmd s)) rfl

end Sys2Proof.Machine
end

section
/-! PROOFS. Which words the decoder matches, and what becomes of every other word (30_encoding.md R89, R91, R201). -/

namespace Sys2Proof.Machine

open Sys2Proof.Safety

/-- A command word is its bits [31:3] before its OP (R88). -/
theorem cmdHigh_append_cmdOp (w : Word) : cmdHigh w ++ cmdOp w = w := by
  ext i hi
  simp only [cmdHigh, cmdOp, BitVec.getElem_append, BitVec.getElem_extractLsb']
  split
  · simp [BitVec.getLsbD_eq_getElem hi]
  · simp [show 3 + (i - 3) = i by omega, BitVec.getLsbD_eq_getElem hi]

theorem cmdOp_toNat (w : Word) : (cmdOp w).toNat = w.toNat % 8 := by simp [cmdOp]

theorem cmdHigh_toNat (w : Word) : (cmdHigh w).toNat = w.toNat / 8 := by
  simp only [cmdHigh, BitVec.extractLsb'_toNat, Nat.shiftRight_eq_div_pow]
  omega

/-- Bits [31:3] as a field are nonzero exactly when one of them is 1 (R89). -/
theorem cmdHigh_ne_zero_iff (w : Word) : cmdHigh w ≠ 0#29 ↔ ∃ k, 3 ≤ k ∧ k < 32 ∧ w.getLsbD k = true := by
  constructor
  · contrapose!
    intro h
    ext i hi
    simpa [cmdHigh] using h (3 + i) (by omega) (by omega)
  · rintro ⟨k, hlo, hhi, hk⟩ h0
    have hbit : (cmdHigh w).getLsbD (k - 3) = w.getLsbD k := by
      simp [cmdHigh, show k - 3 < 29 by omega, show 3 + (k - 3) = k by omega]
    rw [h0, hk] at hbit
    simp at hbit

/-- Each command has one OP, that of its word (R91). -/
theorem decodeOp_eq_command_iff (op : BitVec 3) (i : Instr) :
    decodeOp op = .command i ↔ 0#29 ++ op = encode i := by
  cases i <;> revert op <;> decide

/-- The opcode map reserves 0 and 7 (R89, R91). -/
theorem decodeOp_eq_illegal_iff (op : BitVec 3) (why : IllegalWord) :
    decodeOp op = .illegal why ↔ why = .opZero ∧ op = 0#3 ∨ why = .opSeven ∧ op = 7#3 := by
  cases why <;> revert op <;> decide

theorem decode_of_cmdHigh_eq_zero {w : Word} (h : cmdHigh w = 0#29) : decode w = decodeOp (cmdOp w) := if_pos h

theorem decode_encode : ∀ i : Instr, decode (encode i) = .command i
  | .vlanEnc => decode_vlanEnc
  | .vlanDec => decode_vlanDec
  | .frmEnc => decode_frmEnc
  | .frmDec => decode_frmDec
  | .frmEncFcs => decode_frmEncFcs
  | .frmDecFcs => decode_frmDecFcs

/-- The decoder matches a command's word in all 32 bits (R91). -/
theorem decode_eq_command_iff (w : Word) (i : Instr) : decode w = .command i ↔ w = encode i := by
  refine ⟨fun h => ?_, fun h => h ▸ decode_encode i⟩
  by_cases h0 : cmdHigh w = 0#29
  · rwa [decode_of_cmdHigh_eq_zero h0, decodeOp_eq_command_iff, ← h0, cmdHigh_append_cmdOp] at h
  · rw [decode_of_highBits h0] at h
    cases h

/-- The illegal words by their two fields (R89). -/
theorem decode_illegal_iff (w : Word) :
    (∃ why, decode w = .illegal why) ↔ cmdOp w = 0#3 ∨ cmdOp w = 7#3 ∨ cmdHigh w ≠ 0#29 := by
  by_cases h0 : cmdHigh w = 0#29
  · simp [decode_of_cmdHigh_eq_zero h0, decodeOp_eq_illegal_iff, exists_or, h0]
  · simp [decode_of_highBits h0, h0]

/-- The illegal words by their value (R91). -/
theorem decode_illegal_iff_toNat (w : Word) :
    (∃ why, decode w = .illegal why) ↔ w = 0#32 ∨ 7 ≤ w.toNat := by
  simp only [decode_illegal_iff, ne_eq, BitVec.toNat_eq, cmdOp_toNat, cmdHigh_toNat, BitVec.toNat_ofNat]
  omega

/-- The decoder is total: a word that is no command is illegal (R91). -/
theorem not_command_iff_illegal (w : Word) :
    (¬ ∃ i, decode w = .command i) ↔ ∃ why, decode w = .illegal why := by
  cases decode w <;> simp

/-- Settles O2: each command has its one word, and the words left over are 0 and those from 7 upward. -/
theorem decoderIsTotalAndExact : Obligations.DecoderIsTotalAndExact := fun w =>
  ⟨decode_eq_command_iff w .vlanEnc, decode_eq_command_iff w .vlanDec, decode_eq_command_iff w .frmEnc,
    decode_eq_command_iff w .frmDec, decode_eq_command_iff w .frmEncFcs, decode_eq_command_iff w .frmDecFcs,
    decode_illegal_iff_toNat w⟩

/-- Settles O4: R89's words are the illegal ones; CMD issues any word, and the block completes an illegal one with no
operand read. -/
theorem illegalWordsCompleteAsIllegalCommand : Obligations.IllegalWordsCompleteAsIllegalCommand := by
  refine fun w => ⟨?words, fun hn s => ⟨fun hb => ?issues, fun hp => ?completes⟩⟩
  case words => rw [not_command_iff_illegal, decode_illegal_iff, cmdHigh_ne_zero_iff]; rfl
  case issues => exact busWrite_of_idle (legalAccess_cmd_iff.2 rfl) hb
  case completes =>
    obtain ⟨why, hd⟩ := (not_command_iff_illegal w).1 hn
    exact blockMove_of_illegal hp hd

end Sys2Proof.Machine
end

section
/-! PROOFS. The VLAN tag codec by the bits of a tag body's two bytes (40_vlan_tag.md R100 to R102). -/

namespace Sys2Proof.Machine

/-- A tag body's upper byte ends with the ID's upper four bits; its lower byte is the ID's other eight (R55, R100). -/
theorem be16_tciPack (t : VlanTag) :
    be16 (tciPack t) = [t.pri ++ t.dei ++ t.vid.extractLsb' 8 4, t.vid.extractLsb' 0 8] := by
  have hhi : (tciPack t).extractLsb' 8 8 = t.pri ++ t.dei ++ t.vid.extractLsb' 8 4 := by
    have hupper : (tciPack t).extractLsb' 12 4 = t.pri ++ t.dei :=
      (BitVec.extractLsb'_append_eq_of_le (by omega)).trans BitVec.extractLsb'_eq_self
    have hlower : (tciPack t).extractLsb' 8 4 = t.vid.extractLsb' 8 4 :=
      BitVec.extractLsb'_append_eq_of_add_le (by omega)
    calc (tciPack t).extractLsb' 8 8
        = (tciPack t).extractLsb' 12 4 ++ (tciPack t).extractLsb' 8 4 :=
          (BitVec.extractLsb'_append_extractLsb'_eq_extractLsb' (len₁ := 4) (len₂ := 4) rfl).symm
      _ = t.pri ++ t.dei ++ t.vid.extractLsb' 8 4 := by rw [hupper, hlower]
  have hlo : (tciPack t).extractLsb' 0 8 = t.vid.extractLsb' 0 8 :=
    BitVec.extractLsb'_append_eq_of_add_le (by omega)
  rw [be16, hhi, hlo]

/-- The fields of a tag body by the bits of its two bytes (R54, R100). -/
theorem tciUnpack_append (b0 b1 : Byte) :
    tciUnpack (b0 ++ b1) =
      { pri := b0.extractLsb' 5 3, dei := b0.extractLsb' 4 1, vid := b0.extractLsb' 0 4 ++ b1 } := by
  have hpri : (b0 ++ b1).extractLsb' 13 3 = b0.extractLsb' 5 3 := BitVec.extractLsb'_append_eq_of_le (by omega)
  have hdei : (b0 ++ b1).extractLsb' 12 1 = b0.extractLsb' 4 1 := BitVec.extractLsb'_append_eq_of_le (by omega)
  have hvid : (b0 ++ b1).extractLsb' 0 12 = b0.extractLsb' 0 4 ++ b1 := by
    have hupper : (b0 ++ b1).extractLsb' 8 4 = b0.extractLsb' 0 4 := BitVec.extractLsb'_append_eq_of_le (by omega)
    have hlower : (b0 ++ b1).extractLsb' 0 8 = b1 := BitVec.extractLsb'_append_eq_right
    calc (b0 ++ b1).extractLsb' 0 12
        = (b0 ++ b1).extractLsb' 8 4 ++ (b0 ++ b1).extractLsb' 0 8 :=
          (BitVec.extractLsb'_append_extractLsb'_eq_extractLsb' (len₁ := 8) (len₂ := 4) rfl).symm
      _ = b0.extractLsb' 0 4 ++ b1 := by rw [hupper, hlower]
  rw [tciUnpack, hpri, hdei, hvid]

/-- Settles O8: the reserved ID is the one error, and the body of any other tag by its bits. -/
theorem vlanEncodePacksOrRejects : Obligations.VlanEncodePacksOrRejects := fun t =>
  ⟨fun hv => (vlanEncode_eq_err_iff t _).2 ⟨hv, rfl⟩,
    fun hv => (vlanEncode_eq_ok_iff t _).2 ⟨hv, (be16_tciPack t).symm⟩⟩

/-- Settles O9: the length decides first; of two bytes the ID decides, then the fields stand by their bits. -/
theorem vlanDecodeChecksLengthThenId : Obligations.VlanDecodeChecksLengthThenId := by
  refine ⟨fun _ => vlanDecode_length, fun b0 b1 => ?_⟩
  rw [vlanDecode_two, tciUnpack_append]
  exact ⟨fun hv => if_pos hv, fun hv => if_neg hv⟩

end Sys2Proof.Machine
end

section
/-! PROOFS. What a completion leaves, and the commands VLAN_ENC and VLAN_DEC (40_vlan_tag.md R103, R104). -/

namespace Sys2Proof.Machine

open Sys2Proof.Safety

/-- A command that succeeds with an output OLEN can count leaves exactly that output (R36, R206). -/
theorem outputIs_completeOk_writeOutput {r : Bytes} (h : r.length < 2 ^ 17) (s : State) :
    OutputIs (completeOk (writeOutput r s)) r := by
  refine ⟨fun k => ?obuf, ?olen⟩
  case obuf => rw [completeOk_obuf, writeOutput_obuf, Memory.read_ofList]
  case olen => rw [completeOk_olen, writeOutput_olen, BitVec.toNat_ofNat, Nat.mod_eq_of_lt h]

theorem onlyOutputChanged_completeOk_writeOutput (r : Bytes) (s : State) :
    OnlyOutputChanged s (completeOk (writeOutput r s)) := rfl

/-- The model's error completion is R205's, with the error's own code. -/
theorem completeErr_eq_failedWith (e : CmdError) (s : State) : completeErr e s = failedWith e.code s := rfl

theorem exec_vlanEnc_of_tag {s : State} {g : VlanTag} (h : s.tag = some g) :
    exec .vlanEnc s = .next (complete writeOutput (vlanEncode g) s) :=
  (execVlanEnc_next_iff s _).2 ⟨g, h, rfl⟩

theorem exec_vlanEnc_of_no_tag {s : State} (h : s.tag = none) : exec .vlanEnc s = .fault .unwrittenRead := by
  rw [exec, execVlanEnc, h]

theorem exec_vlanDec_of_holdsInput {s : State} {b : Bytes} (h : HoldsInput s b) :
    exec .vlanDec s = .next (complete writeTag (vlanDecode b) s) :=
  (execVlanDec_next_iff s _).2 ⟨b, h, rfl⟩

theorem exec_vlanDec_of_lacksInput {s : State} (h : LacksInput s) : exec .vlanDec s = .fault .unwrittenRead := by
  rw [exec, execVlanDec, (inputBytes_eq_none_iff s).2 h]

/-- Settles O28: the command completes with what `vlanEncode` answers on TAG (O8). -/
theorem vlanEncCommand : Obligations.VlanEncCommand := by
  refine ⟨decode_vlanEnc, fun s g hg hv => ?output, fun s g hg hv => ?reserved, fun s => exec_vlanEnc_of_no_tag⟩
  case output =>
    have hexec := exec_vlanEnc_of_tag hg
    rw [(vlanEncodePacksOrRejects g).2 hv, complete_ok] at hexec
    exact ⟨_, hexec, outputIs_completeOk_writeOutput (by simp) s, onlyOutputChanged_completeOk_writeOutput _ s⟩
  case reserved =>
    rw [exec_vlanEnc_of_tag hg, (vlanEncodePacksOrRejects g).1 hv, complete_err, completeErr_eq_failedWith]
    rfl

/-- Settles O29: the command completes with what `vlanDecode` answers on the input bytes (O9). -/
theorem vlanDecCommand : Obligations.VlanDecCommand := by
  obtain ⟨hlength, hbytes⟩ := vlanDecodeChecksLengthThenId
  refine ⟨decode_vlanDec, fun s b0 b1 hb hv => ?tag, fun s b0 b1 hb hv => ?reserved, fun s b hb hn => ?length,
    fun s => exec_vlanDec_of_lacksInput⟩
  case tag =>
    rw [exec_vlanDec_of_holdsInput hb, (hbytes b0 b1).2 hv, complete_ok]
    rfl
  case reserved =>
    rw [exec_vlanDec_of_holdsInput hb, (hbytes b0 b1).1 hv, complete_err, completeErr_eq_failedWith]
    rfl
  case length =>
    have hlen : b.length ≠ 2 := by
      obtain ⟨hl, -⟩ := hb
      rwa [hl]
    rw [exec_vlanDec_of_holdsInput hb, hlength b hlen, complete_err, completeErr_eq_failedWith]
    rfl

end Sys2Proof.Machine
end

section
/-! PROOFS. The frame encoder: the bytes it answers, their length and its one error (41_frame_encode.md R120 to R124). -/

namespace Sys2Proof.Machine

open Sys2Proof.Safety

/-- The encoder answers the frame's wire bytes, padded, exactly when no ID is reserved (R120, R122). -/
theorem frameEncode_eq_ok_iff (f : Frame) (out : Bytes) :
    frameEncode f = .ok out ↔ IdsValid f.vlan ∧ out = wireBytes f ++ padding f.payload := by
  cases hc : encodeChain f.vlan with
  | ok chain =>
    obtain ⟨hids, hchain⟩ := (encodeChain_eq_ok_iff f.vlan chain).1 hc
    have hwire : frameEncode f = .ok (wireBytes f ++ padding f.payload) := by
      rw [frameEncode, hc, hchain]
      rfl
    rw [hwire, Result.ok.injEq, eq_comm]
    exact ⟨fun h => ⟨hids, h⟩, fun ⟨_, h⟩ => h⟩
  | err e =>
    obtain ⟨⟨t, ht, hv⟩, -⟩ := (encodeChain_eq_err_iff f.vlan e).1 hc
    rw [frameEncode, hc]
    exact ⟨fun h => (nomatch h), fun ⟨hids, _⟩ => absurd hv (hids t ht)⟩

/-- The encoder's only error is InvalidVlanId, and only a reserved ID raises it (R123). -/
theorem frameEncode_eq_err_iff (f : Frame) (e : ErrKind) :
    frameEncode f = .err e ↔ (∃ t ∈ f.vlan, t.vid = reservedVid) ∧ e = .invalidVlanId := by
  rw [← encodeChain_eq_err_iff, frameEncode]
  cases encodeChain f.vlan <;> simp

@[simp] theorem length_macBytes (a : MacAddr) : (macBytes a).length = 6 := rfl

@[simp] theorem length_be16 (v : Half) : (be16 v).length = 2 := rfl

theorem chainBytes_cons (t : VlanTag) (ts : List VlanTag) :
    chainBytes (t :: ts) = be16 vlanMarker ++ be16 (tciPack t) ++ chainBytes ts := List.flatMap_cons

@[simp] theorem length_chainBytes (ts : List VlanTag) : (chainBytes ts).length = 4 * ts.length := by
  induction ts with
  | nil => rfl
  | cons t ts ih => simp only [chainBytes_cons, List.length_append, length_be16, ih, List.length_cons]; omega

@[simp] theorem length_wireBytes (f : Frame) :
    (wireBytes f).length = 14 + 4 * f.vlan.length + f.payload.length := by
  simp only [wireBytes, List.length_append, length_macBytes, length_be16, length_chainBytes]; omega

@[simp] theorem length_padding (payload : Bytes) :
    (padding payload).length = max payload.length 46 - payload.length := List.length_replicate

theorem frameEncode_length {f : Frame} {out : Bytes} (h : frameEncode f = .ok out) :
    out.length = 14 + 4 * f.vlan.length + max f.payload.length 46 := by
  obtain ⟨-, rfl⟩ := (frameEncode_eq_ok_iff f out).1 h
  rw [List.length_append, length_wireBytes, length_padding]
  omega

/-- Settles O11: the output is the wire bytes, of which the payload is the last part, and the padding. -/
theorem frameEncodeLength : Obligations.FrameEncodeLength := by
  refine fun f out h => ⟨?length, ?payload⟩
  case length => rw [frameEncode_length h]; omega
  case payload =>
    obtain ⟨-, rfl⟩ := (frameEncode_eq_ok_iff f out).1 h
    rw [wireBytes, List.append_assoc _ f.payload, List.drop_left' (by simp; omega), List.take_left]

end Sys2Proof.Machine
end

section
/-! PROOFS. The decoder's loop over an encoded chain, and the terminal EtherType 0x8100 (41_frame_encode.md R124,
42_frame_decode.md R143 to R145). -/

namespace Sys2Proof.Machine

open Sys2Proof.Safety

/-- The decoder's loop on the bytes behind the addresses, whose first two are the first candidate (R143). -/
def readBody : Bytes → Result (List VlanTag × Half × Bytes)
  | e0 :: e1 :: rest => readChain (e0 ++ e1) rest
  | _ => .err .truncatedInput

/-- What the loop answers when tags stand before the bytes for which it answers `r`. -/
def withTags (ts : List VlanTag) : Result (List VlanTag × Half × Bytes) → Result (List VlanTag × Half × Bytes)
  | .ok (us, etype, payload) => .ok (ts ++ us, etype, payload)
  | .err e => .err e

@[simp] theorem withTags_nil (r : Result (List VlanTag × Half × Bytes)) : withTags [] r = r := by
  cases r <;> rfl

theorem withTags_withTags (ts us : List VlanTag) (r : Result (List VlanTag × Half × Bytes)) :
    withTags ts (withTags us r) = withTags (ts ++ us) r := by
  cases r with
  | ok v => simp only [withTags, List.append_assoc]
  | err e => rfl

theorem withTags_eq_ok {ts us : List VlanTag} {etype : Half} {payload : Bytes}
    {r : Result (List VlanTag × Half × Bytes)} (h : withTags ts r = .ok (us, etype, payload)) :
    ∃ vs, r = .ok (vs, etype, payload) ∧ us = ts ++ vs := by
  cases r with
  | ok v => cases h; exact ⟨_, rfl, rfl⟩
  | err e => cases h

/-- The decoder takes tags, terminal type and payload from the loop over the bytes behind the addresses (R140, R142). -/
theorem readBody_of_frameDecode {b : Bytes} {g : Frame} (h : frameDecode b = .ok g) :
    readBody (b.drop 12) = .ok (g.vlan, g.etype, g.payload) := by
  unfold frameDecode at h
  split at h
  · split at h
    · cases h
    · rename_i hchain
      split at h
      · cases h; exact hchain
      · cases h
  · cases h

/-- A half word read back from its two bytes (R54, R55). -/
theorem be16_join (v : Half) : v.extractLsb' 8 8 ++ v.extractLsb' 0 8 = v :=
  (BitVec.extractLsb'_append_extractLsb'_eq_extractLsb' (len₁ := 8) (len₂ := 8) rfl).trans BitVec.extractLsb'_eq_self

theorem readBody_be16 (v : Half) (rest : Bytes) : readBody (be16 v ++ rest) = readChain v rest :=
  congrArg (readChain · rest) (be16_join v)

theorem tciUnpack_tciPack (t : VlanTag) : tciUnpack (tciPack t) = t := by
  have hpri : (tciPack t).extractLsb' 13 3 = t.pri :=
    (BitVec.extractLsb'_append_eq_of_le (by omega)).trans
      ((BitVec.extractLsb'_append_eq_of_le (by omega)).trans BitVec.extractLsb'_eq_self)
  have hdei : (tciPack t).extractLsb' 12 1 = t.dei :=
    (BitVec.extractLsb'_append_eq_of_le (by omega)).trans BitVec.extractLsb'_append_eq_right
  have hvid : (tciPack t).extractLsb' 0 12 = t.vid := BitVec.extractLsb'_append_eq_right
  rw [tciUnpack, hpri, hdei, hvid]

/-- A tag body with a good ID decodes to its tag (R105). -/
theorem vlanDecode_be16_tciPack {t : VlanTag} (h : t.vid ≠ reservedVid) : vlanDecode (be16 (tciPack t)) = .ok t := by
  rw [be16, vlanDecode_two, be16_join, tciUnpack_tciPack, if_neg h]

/-- The loop strips a tag with a good ID, whatever follows it: with too few bytes behind it both sides are truncated. -/
theorem readBody_tag {t : VlanTag} (h : t.vid ≠ reservedVid) (b : Bytes) :
    readBody (be16 vlanMarker ++ be16 (tciPack t) ++ b) = withTags [t] (readBody b) := by
  rw [List.append_assoc, readBody_be16]
  match b with
  | [] => exact readChain_short (by simp)
  | [_] => exact readChain_short (by simp)
  | e0 :: e1 :: rest =>
    have hdec : vlanDecode [(tciPack t).extractLsb' 8 8, (tciPack t).extractLsb' 0 8] = .ok t :=
      vlanDecode_be16_tciPack h
    refine (readChain_step _ _ e0 e1 rest).trans ?_
    rw [hdec, readBody]
    cases readChain (e0 ++ e1) rest <;> rfl

/-- The loop strips a chain of good tags, whatever follows it (R145). -/
theorem readBody_chainBytes {ts : List VlanTag} (h : IdsValid ts) (b : Bytes) :
    readBody (chainBytes ts ++ b) = withTags ts (readBody b) := by
  induction ts with
  | nil => exact (withTags_nil _).symm
  | cons t ts ih =>
    obtain ⟨ht, hts⟩ := List.forall_mem_cons.1 h
    rw [chainBytes_cons, List.append_assoc, readBody_tag ht, ih hts, withTags_withTags, List.singleton_append]

/-- At the marker the loop ends well only with a tag. -/
theorem readChain_marker_ok {rest payload : Bytes} {ts : List VlanTag} {etype : Half}
    (h : readChain vlanMarker rest = .ok (ts, etype, payload)) : ∃ u us, ts = u :: us := by
  match rest with
  | b0 :: b1 :: e0 :: e1 :: rest =>
    rw [readChain_step] at h
    split at h
    · cases h
    · split at h <;> cases h
      exact ⟨_, _, rfl⟩
  | [] | [_] | [_, _] | [_, _, _] =>
    rw [readChain_short (by simp)] at h
    cases h

theorem drop_wireBytes (f : Frame) (b : Bytes) :
    (wireBytes f ++ b).drop 12 = chainBytes f.vlan ++ (be16 f.etype ++ (f.payload ++ b)) := by
  simp only [wireBytes, List.append_assoc]
  rfl

/-- Settles O14: only a reserved ID fails, and the decoder's loop stands at a marker behind the frame's own chain. -/
theorem frameEncodeAcceptsAllElse : Obligations.FrameEncodeAcceptsAllElse := by
  refine ⟨fun f => ?succeeds, fun f g out hetype henc hdec => ?marker⟩
  case succeeds => simp only [frameEncode_eq_ok_iff, exists_and_left, exists_eq, and_true]; rfl
  case marker =>
    obtain ⟨hids, rfl⟩ := (frameEncode_eq_ok_iff f out).1 henc
    have hbody := readBody_of_frameDecode hdec
    rw [drop_wireBytes, readBody_chainBytes hids, readBody_be16, hetype] at hbody
    obtain ⟨us, hmarker, hvlan⟩ := withTags_eq_ok hbody
    obtain ⟨u, us, rfl⟩ := readChain_marker_ok hmarker
    exact ⟨u, us, hvlan⟩

end Sys2Proof.Machine
end

section
/-! PROOFS. The course of an encode command, and FRM_ENC (41_frame_encode.md R125). -/

namespace Sys2Proof.Machine

open Sys2Proof.Safety

theorem encodeCommand_of_oversize {trailer : Nat} {s : State} (core : Frame → Result Bytes)
    (h : s.params.bufBytes < encodedLength trailer s) : encodeCommand trailer core s = .refused .oversize :=
  if_pos h

theorem encodeCommand_of_lacksFrame {trailer : Nat} {s : State} (core : Frame → Result Bytes)
    (hfit : encodedLength trailer s ≤ s.params.bufBytes) (h : LacksFrame s) :
    encodeCommand trailer core s = .fault .unwrittenRead := by
  rw [encodeCommand, if_neg (by omega), (frameOperand_eq_none_iff s).2 h]

theorem encodeCommand_of_holdsFrame {trailer : Nat} {s : State} {f : Frame} (core : Frame → Result Bytes)
    (hfit : encodedLength trailer s ≤ s.params.bufBytes) (h : HoldsFrame s f) :
    encodeCommand trailer core s = .next (complete writeOutput (core f) s) :=
  (encodeCommand_next_iff trailer core s _).2 ⟨hfit, f, h, rfl⟩

theorem exec_frmEnc_of_holdsFrame {s : State} {f : Frame} (hfit : encodedLength 0 s ≤ s.params.bufBytes)
    (h : HoldsFrame s f) : exec .frmEnc s = .next (complete writeOutput (frameEncode f) s) :=
  encodeCommand_of_holdsFrame frameEncode hfit h

/-- The length the command checks is the length of what the encoder answers (R121, R125). -/
theorem frameEncode_length_of_holdsFrame {s : State} {f : Frame} {r : Bytes} (h : HoldsFrame s f)
    (hr : frameEncode f = .ok r) : r.length = encodedLength 0 s := by
  obtain ⟨-, -, -, -, -, ⟨hvlan, -⟩, hpayload, -⟩ := h
  rw [frameEncode_length hr, hvlan, hpayload]
  rfl

theorem bufBytes_le_of_wf {p : Params} (h : p.wf = true) : p.bufBytes ≤ 65536 := by
  simp only [Params.wf, Bool.and_eq_true, decide_eq_true_eq] at h
  omega

/-- Settles O30: the command completes with what `frameEncode` answers on its frame, whose length its first check bounds. -/
theorem frmEncCommand : Obligations.FrmEncCommand := by
  refine ⟨decode_frmEnc,
    fun s (hover : s.params.bufBytes < encodedLength 0 s) => encodeCommand_of_oversize frameEncode hover,
    fun s (hfit : encodedLength 0 s ≤ s.params.bufBytes) =>
      ⟨encodeCommand_of_lacksFrame frameEncode hfit, fun f hf => ⟨fun hv => ?reserved, fun hp hids => ?output⟩⟩⟩
  case reserved =>
    rw [exec_frmEnc_of_holdsFrame hfit hf, (frameEncode_eq_err_iff f _).2 ⟨hv, rfl⟩, complete_err,
      completeErr_eq_failedWith]
    rfl
  case output =>
    have hr := (frameEncode_eq_ok_iff f _).2 ⟨hids, rfl⟩
    have hlen : (wireBytes f ++ padding f.payload).length < 2 ^ 17 := by
      have hmax := bufBytes_le_of_wf hp
      have hout := frameEncode_length_of_holdsFrame hf hr
      omega
    have hexec := exec_frmEnc_of_holdsFrame hfit hf
    rw [hr, complete_ok] at hexec
    exact ⟨_, _, hr, hexec, outputIs_completeOk_writeOutput hlen s, onlyOutputChanged_completeOk_writeOutput _ s⟩

end Sys2Proof.Machine
end

section
/-! PROOFS. The frame decoder as one assembly of its loop's answer, and R140's cursor loop (42_frame_decode.md R140 to R148). -/

namespace Sys2Proof.Machine

open Sys2Proof.Safety

/-- Steps 5 to 7 of R140 on the loop's answer: the length check, then the frame with the addresses of `b`. -/
def assembleFrame (b : Bytes) : Result (List VlanTag × Half × Bytes) → Result Frame
  | .ok (tags, etype, payload) =>
    if payloadAccepted tags.length payload.length then
      .ok { dst := macAt b 0, src := macAt b 6, vlan := tags, etype := etype, payload := payload }
    else .err .truncatedInput
  | .err e => .err e

theorem readBody_of_length_lt {b : Bytes} (h : b.length < 2) : readBody b = .err .truncatedInput := by
  match b with
  | [] | [_] => rfl
  | _ :: _ :: _ => simp at h

/-- The decoder is the loop over the bytes behind the addresses, then the assembly; an input without a whole first candidate
fails in the loop's place (R141). -/
theorem frameDecode_eq_assembleFrame (b : Bytes) : frameDecode b = assembleFrame b (readBody (b.drop 12)) := by
  match b with
  | d0 :: d1 :: d2 :: d3 :: d4 :: d5 :: s0 :: s1 :: s2 :: s3 :: s4 :: s5 :: e0 :: e1 :: rest =>
    show frameDecode _ = assembleFrame _ (readChain (e0 ++ e1) rest)
    rw [frameDecode]
    cases readChain (e0 ++ e1) rest <;> rfl
  | [] | [_] | [_, _] | [_, _, _] | [_, _, _, _] | [_, _, _, _, _] | [_, _, _, _, _, _] | [_, _, _, _, _, _, _]
  | [_, _, _, _, _, _, _, _] | [_, _, _, _, _, _, _, _, _] | [_, _, _, _, _, _, _, _, _, _]
  | [_, _, _, _, _, _, _, _, _, _, _] | [_, _, _, _, _, _, _, _, _, _, _, _]
  | [_, _, _, _, _, _, _, _, _, _, _, _, _] => rfl

/-- With two bytes at an index, they are the candidate and the loop goes on behind them (R143). -/
theorem readBody_drop {b : Bytes} {i : Nat} (h : i + 2 ≤ b.length) :
    readBody (b.drop i) = readChain (rd16be b i) (b.drop (i + 2)) := by
  have h0 : i < b.length := by omega
  have h1 : i + 1 < b.length := by omega
  rw [List.drop_eq_getElem_cons h0, List.drop_eq_getElem_cons h1, readBody, rd16be, List.getD_eq_getElem b _ h0,
    List.getD_eq_getElem b _ h1]

/-- A good body after a marker gives its tag, whatever follows it: with too few bytes behind it both sides are truncated
(R144, R145). -/
theorem readChain_body_ok {body : Bytes} {t : VlanTag} (h : vlanDecode body = .ok t) (b : Bytes) :
    readChain vlanMarker (body ++ b) = withTags [t] (readBody b) := by
  have hlen : body.length = 2 := by
    by_contra hne
    rw [vlanDecode_length hne] at h
    cases h
  obtain ⟨b0, b1, rfl⟩ := List.length_eq_two.1 hlen
  match b with
  | [] | [_] => exact readChain_short (by simp)
  | e0 :: e1 :: rest =>
    refine (readChain_step b0 b1 e0 e1 rest).trans ?_
    rw [h, readBody]
    cases readChain (e0 ++ e1) rest <;> rfl

/-- A bad body after a marker ends the loop with the body's error when a next candidate is there (R145). -/
theorem readChain_body_err {body b : Bytes} {e : ErrKind} (hbody : body.length = 2) (hb : 2 ≤ b.length)
    (h : vlanDecode body = .err e) : readChain vlanMarker (body ++ b) = .err e := by
  obtain ⟨b0, b1, rfl⟩ := List.length_eq_two.1 hbody
  match b with
  | e0 :: e1 :: rest => exact (readChain_step b0 b1 e0 e1 rest).trans (by rw [h])
  | [] | [_] => simp at hb

/-- Where the candidate is no marker, steps 5 to 7 of R140 assemble what the loop answers. -/
theorem finishByCursor_eq_assembleFrame {cand : Half} (h : cand ≠ vlanMarker) (b : Bytes) (cur : Nat)
    (tags : List VlanTag) :
    finishByCursor b cur cand tags = assembleFrame b (withTags tags (readChain cand (b.drop cur))) := by
  rw [readChain_end h, withTags, List.append_nil, finishByCursor, assembleFrame, List.length_drop]

/-- The cursor loop assembles what the loop over the bytes from the cursor on answers behind the tags read so far. The fuel
is enough when that many chain steps and one more would pass the end of the input (R145). -/
theorem loopByCursor_eq_assembleFrame (b : Bytes) (fuel cur : Nat) (cand : Half) (tags : List VlanTag)
    (hfuel : b.length < cur + 4 * (fuel + 1)) :
    loopByCursor b fuel cur cand tags = assembleFrame b (withTags tags (readChain cand (b.drop cur))) := by
  induction fuel generalizing cur cand tags with
  | zero =>
    rw [loopByCursor]
    split_ifs with hcand
    · rw [hcand, readChain_short (by rw [List.length_drop]; omega)]
      rfl
    · exact finishByCursor_eq_assembleFrame hcand b cur tags
  | succ fuel ih =>
    rw [loopByCursor]
    split_ifs with hcand hleft
    · rw [hcand, readChain_short (by rwa [List.length_drop])]
      rfl
    · have hbytes : b.drop cur = (b.drop cur).take 2 ++ b.drop (cur + 2) := by
        rw [← List.drop_drop, List.take_append_drop]
      cases hbody : vlanDecode ((b.drop cur).take 2) with
      | err e =>
        have hchain : readChain cand (b.drop cur) = .err e := by
          rw [hcand, hbytes]
          exact readChain_body_err (by simp; omega) (by simp; omega) hbody
        rw [hchain]
        rfl
      | ok t =>
        have hchain : readChain cand (b.drop cur) =
            withTags [t] (readChain (rd16be b (cur + 2)) (b.drop (cur + 4))) := by
          rw [hcand, hbytes, readChain_body_ok hbody, readBody_drop (by omega)]
        rw [hchain, withTags_withTags]
        exact ih (cur + 4) (rd16be b (cur + 2)) (tags ++ [t]) (by omega)
    · exact finishByCursor_eq_assembleFrame hcand b cur tags

/-- Settles O15: both decoders assemble the loop's answer on the bytes behind the addresses. -/
theorem frameDecodeIsTheCursorLoop : Obligations.FrameDecodeIsTheCursorLoop := by
  intro b
  rw [frameDecode_eq_assembleFrame, frameDecodeByCursor]
  split_ifs with hshort
  · rw [readBody_of_length_lt (by rw [List.length_drop]; omega)]
    rfl
  · rw [loopByCursor_eq_assembleFrame b _ 14 _ [] (by omega), withTags_nil, readBody_drop (by omega)]

/-- Settles O17: the loop strips the good tags and stands at a marker with fewer than 4 bytes left. -/
theorem chainStepNeedsFourBytes : Obligations.ChainStepNeedsFourBytes := by
  intro dst src ts tail hids htail
  have hdrop : (macBytes dst ++ macBytes src ++ chainBytes ts ++ [0x81#8, 0x00#8] ++ tail).drop 12 =
      chainBytes ts ++ (be16 vlanMarker ++ tail) := by
    simp only [List.append_assoc]
    rfl
  rw [frameDecode_eq_assembleFrame, hdrop, readBody_chainBytes hids, readBody_be16, readChain_short htail]
  rfl

/-- Settles O16: without a whole candidate the decoder fails at once, and with nothing behind it either at the chain step or at
the length check. -/
theorem shortInputsAreTruncated : Obligations.ShortInputsAreTruncated := by
  intro b hlen
  rw [frameDecode_eq_assembleFrame]
  by_cases hheader : b.length < 14
  · rw [readBody_of_length_lt (by rw [List.length_drop]; omega)]
    rfl
  · rw [readBody_drop (by omega), List.drop_eq_nil_of_le (by omega)]
    by_cases hcand : rd16be b 12 = vlanMarker
    · rw [hcand, readChain_short (by simp)]
      rfl
    · rw [readChain_end hcand]
      rfl

end Sys2Proof.Machine
end

section
/-! PROOFS. What a decoded frame measures, and the errors the decoder can raise (42_frame_decode.md R144 to R149). -/

namespace Sys2Proof.Machine

open Sys2Proof.Safety

theorem assembleFrame_eq_ok {b : Bytes} {r : Result (List VlanTag × Half × Bytes)} {f : Frame}
    (h : assembleFrame b r = .ok f) :
    r = .ok (f.vlan, f.etype, f.payload) ∧ payloadAccepted f.vlan.length f.payload.length = true := by
  unfold assembleFrame at h
  split at h
  · split_ifs at h with haccepted
    cases h
    exact ⟨rfl, haccepted⟩
  · cases h

/-- The assembly itself raises TruncatedInput only (R146). -/
theorem assembleFrame_eq_err {b : Bytes} {r : Result (List VlanTag × Half × Bytes)} {e : ErrKind}
    (h : assembleFrame b r = .err e) : r = .err e ∨ e = .truncatedInput := by
  unfold assembleFrame at h
  split at h
  · split_ifs at h
    cases h
    exact .inr rfl
  · cases h
    exact .inl rfl

/-- Every row of R146's table accepts 42 bytes or more only. -/
theorem le_of_payloadAccepted {nTags rem : Nat} (h : payloadAccepted nTags rem = true) : 42 ≤ rem := by
  rw [payloadAccepted, Bool.not_eq_true', decide_eq_false_iff_not, minPayload] at h
  split_ifs at h <;> omega

/-- No byte from the cursor on is lost: 4 for each tag, and the rest is the payload (R145, R148). -/
theorem readChain_length {cand etype : Half} {rest payload : Bytes} {ts : List VlanTag}
    (h : readChain cand rest = .ok (ts, etype, payload)) : rest.length = 4 * ts.length + payload.length := by
  fun_induction readChain cand rest generalizing ts with
  | case1 => cases h
  | case2 => cases h
  | case3 b0 b1 e0 e1 rest t hbody us etype' payload' hchain ih =>
    cases h
    simp only [List.length_cons, ih hchain]
    omega
  | case4 => cases h
  | case5 => cases h; simp

theorem readBody_length {b payload : Bytes} {ts : List VlanTag} {etype : Half}
    (h : readBody b = .ok (ts, etype, payload)) : b.length = 2 + 4 * ts.length + payload.length := by
  match b with
  | e0 :: e1 :: rest => simp only [List.length_cons, readChain_length h]; omega
  | [] | [_] => cases h

/-- A decoded frame accounts for every byte of its input, of which 42 or more are payload (R146, R148). -/
theorem frameDecode_length {b : Bytes} {f : Frame} (h : frameDecode b = .ok f) :
    b.length = 14 + 4 * f.vlan.length + f.payload.length ∧ 42 ≤ f.payload.length := by
  rw [frameDecode_eq_assembleFrame] at h
  obtain ⟨hbody, haccepted⟩ := assembleFrame_eq_ok h
  have hlen := readBody_length hbody
  rw [List.length_drop] at hlen
  exact ⟨by omega, le_of_payloadAccepted haccepted⟩

theorem vlanDecode_ne_checksumMismatch (b : Bytes) : vlanDecode b ≠ .err .checksumMismatch := by
  unfold vlanDecode
  split_ifs <;> simp

theorem readChain_ne_checksumMismatch (cand : Half) (rest : Bytes) : readChain cand rest ≠ .err .checksumMismatch := by
  fun_induction readChain cand rest with
  | case1 b0 b1 e0 e1 rest e hbody =>
    rintro ⟨⟩
    exact vlanDecode_ne_checksumMismatch _ hbody
  | case2 b0 b1 e0 e1 rest t hbody e hchain ih => rwa [← hchain]
  | case3 => simp
  | case4 => simp
  | case5 => simp

/-- The decoder raises no ChecksumMismatch (R149). -/
theorem frameDecode_ne_checksumMismatch (b : Bytes) : frameDecode b ≠ .err .checksumMismatch := by
  intro h
  rw [frameDecode_eq_assembleFrame] at h
  obtain hbody | htruncated := assembleFrame_eq_err h
  · match b.drop 12, hbody with
    | _ :: _ :: _, hchain => exact readChain_ne_checksumMismatch _ _ hchain
  · cases htruncated

/-- The tags and the payload of every decoded frame fit VLAN[] and OBUF (R4, R149): the smallest payload leaves room for no
more than MAX_TAGS tags in IBUF. -/
theorem frameDecode_fits {s : State} {b : Bytes} {f : Frame} (hinv : Inv s) (hb : HoldsInput s b)
    (h : frameDecode b = .ok f) :
    f.vlan.length ≤ s.params.maxTags ∧ f.payload.length + 14 ≤ s.ilen.toNat ∧ s.ilen.toNat ≤ s.params.bufBytes := by
  obtain ⟨hlen, hpayload⟩ := frameDecode_length h
  obtain ⟨hilen, -⟩ := hb
  have hfit := hinv.ilen_le
  have hwf := hinv.params
  simp only [Params.wf, Bool.and_eq_true, decide_eq_true_eq] at hwf
  refine ⟨?_, ?_, hfit⟩ <;> omega

end Sys2Proof.Machine
end

section
/-! PROOFS. The course of a decode command, and FRM_DEC (42_frame_decode.md R149). -/

namespace Sys2Proof.Machine

open Sys2Proof.Safety

/-- A command that succeeds with a frame VCOUNT and OLEN can count leaves exactly that frame (R149, R206). -/
theorem frameInRegisters_completeOk_writeFrame {f : Frame} (hvlan : f.vlan.length < 2 ^ 16)
    (hpayload : f.payload.length < 2 ^ 17) (s : State) : FrameInRegisters (completeOk (writeFrame f s)) f := by
  refine ⟨rfl, rfl, rfl, rfl, rfl, ?vcount, fun j => Memory.read_ofList j f.vlan,
    fun k => Memory.read_ofList k f.payload, ?olen⟩
  case vcount => rw [completeOk_vcount, writeFrame_vcount, BitVec.toNat_ofNat, Nat.mod_eq_of_lt hvlan]
  case olen => rw [completeOk_olen, writeFrame_olen, BitVec.toNat_ofNat, Nat.mod_eq_of_lt hpayload]

theorem onlyFrameChanged_completeOk_writeFrame (f : Frame) (s : State) :
    OnlyFrameChanged s (completeOk (writeFrame f s)) := rfl

theorem decodeCommand_of_lacksInput {s : State} (core : Bytes → Result Frame) (h : LacksInput s) :
    decodeCommand core s = .fault .unwrittenRead := by
  rw [decodeCommand, (inputBytes_eq_none_iff s).2 h]

theorem decodeCommand_of_holdsInput {s : State} {b : Bytes} (core : Bytes → Result Frame) (h : HoldsInput s b) :
    decodeCommand core s = .next (complete writeFrame (core b) s) :=
  (decodeCommand_next_iff core s _).2 ⟨b, h, rfl⟩

/-- A decode command whose core function fails leaves its error's code and nothing else (R205). -/
theorem decodeCommand_of_err {s : State} {b : Bytes} {core : Bytes → Result Frame} {e : ErrKind}
    (hb : HoldsInput s b) (h : core b = .err e) :
    decodeCommand core s = .next (failedWith (CmdError.core e).code s) := by
  rw [decodeCommand_of_holdsInput core hb, h, complete_err, completeErr_eq_failedWith]

/-- A decode command whose core function decodes a frame out of some of the input bytes leaves that frame: ILEN has 17 bits,
so the counts of the frame fit their registers (R149, R176). -/
theorem decodeCommand_of_ok {s : State} {b body : Bytes} {core : Bytes → Result Frame} {f : Frame}
    (hb : HoldsInput s b) (h : core b = .ok f) (hbody : frameDecode body = .ok f) (hle : body.length ≤ b.length) :
    ∃ t, decodeCommand core s = .next t ∧ FrameInRegisters t f ∧ OnlyFrameChanged s t := by
  obtain ⟨hlen, -⟩ := frameDecode_length hbody
  have hmax : b.length < 2 ^ 17 := by
    obtain ⟨hilen, -⟩ := hb
    exact hilen ▸ s.ilen.isLt
  refine ⟨_, decodeCommand_of_holdsInput core hb, ?_⟩
  rw [h, complete_ok]
  exact ⟨frameInRegisters_completeOk_writeFrame (by omega) (by omega) s, onlyFrameChanged_completeOk_writeFrame f s⟩

/-- Settles O31: the command completes with what `frameDecode` answers on the input bytes, and every frame it answers fits. -/
theorem frmDecCommand : Obligations.FrmDecCommand :=
  ⟨decode_frmDec, fun _ => decodeCommand_of_lacksInput frameDecode, fun _ b hb =>
    ⟨fun _ hf => decodeCommand_of_ok hb hf hf le_rfl, fun he => decodeCommand_of_err hb he,
      fun he => decodeCommand_of_err hb he, frameDecode_ne_checksumMismatch b,
      fun _ hf hinv => frameDecode_fits hinv hb hf⟩⟩

end Sys2Proof.Machine
end

section
/-! PROOFS. The FCS wrapper, and the commands FRM_ENC_FCS and FRM_DEC_FCS (43_fcs.md R172 to R176). -/

namespace Sys2Proof.Machine

open Sys2Proof.Safety

theorem frameEncodeFcs_of_err {f : Frame} {e : ErrKind} (h : frameEncode f = .err e) : frameEncodeFcs f = .err e := by
  rw [frameEncodeFcs, h]

theorem frameEncodeFcs_of_ok {f : Frame} {base : Bytes} (h : frameEncode f = .ok base) :
    frameEncodeFcs f = .ok (base ++ be32 (crc32 base)) := by
  rw [frameEncodeFcs, h]

theorem frameDecodeFcs_short {b : Bytes} (h : b.length < 4) : frameDecodeFcs b = .err .truncatedInput := if_pos h

/-- Over a body and its four trailer bytes the decoder compares the body's CRC with the trailer before it decodes (R173). -/
theorem frameDecodeFcs_append (body : Bytes) (t0 t1 t2 t3 : Byte) :
    frameDecodeFcs (body ++ [t0, t1, t2, t3]) =
      if crc32 body ≠ t0 ++ t1 ++ t2 ++ t3 then .err .checksumMismatch else frameDecode body := by
  have hlen : (body ++ [t0, t1, t2, t3]).length = body.length + 4 := List.length_append
  rw [frameDecodeFcs, hlen, if_neg (by omega), Nat.add_sub_cancel, List.take_left, List.drop_left]
  rfl

/-- Settles O24: a short input fails at once; a body's CRC is compared with its trailer before the body is decoded. -/
theorem fcsDecodeChecksInOrder : Obligations.FcsDecodeChecksInOrder :=
  ⟨fun _ => frameDecodeFcs_short, fun body t0 t1 t2 t3 =>
    ⟨fun hne => (frameDecodeFcs_append body t0 t1 t2 t3).trans (if_pos hne),
      fun heq => (frameDecodeFcs_append body t0 t1 t2 t3).trans (if_neg (not_not_intro heq))⟩⟩

/-- An encode command whose core function fails leaves its error's code and nothing else (R205). -/
theorem encodeCommand_of_err {trailer : Nat} {s : State} {f : Frame} {core : Frame → Result Bytes} {e : ErrKind}
    (hfit : encodedLength trailer s ≤ s.params.bufBytes) (hf : HoldsFrame s f) (h : core f = .err e) :
    encodeCommand trailer core s = .next (failedWith (CmdError.core e).code s) := by
  rw [encodeCommand_of_holdsFrame core hfit hf, h, complete_err, completeErr_eq_failedWith]

/-- An encode command whose core function answers bytes of the checked length leaves exactly them: with legal parameters OLEN
can count every length that passes the check (R3, R125, R175). -/
theorem encodeCommand_of_ok {trailer : Nat} {s : State} {f : Frame} {core : Frame → Result Bytes} {r : Bytes}
    (hp : s.params.wf = true) (hfit : encodedLength trailer s ≤ s.params.bufBytes) (hf : HoldsFrame s f)
    (h : core f = .ok r) (hlen : r.length = encodedLength trailer s) :
    ∃ t, encodeCommand trailer core s = .next t ∧ OutputIs t r ∧ OnlyOutputChanged s t := by
  have hmax := bufBytes_le_of_wf hp
  refine ⟨_, encodeCommand_of_holdsFrame core hfit hf, ?_⟩
  rw [h, complete_ok]
  exact ⟨outputIs_completeOk_writeOutput (by omega) s, onlyOutputChanged_completeOk_writeOutput r s⟩

/-- With the FCS behind it the encoder's answer has the length FRM_ENC_FCS checks, 4 more than FRM_ENC's (R175). -/
theorem length_append_fcs_of_holdsFrame {s : State} {f : Frame} {r : Bytes} (hf : HoldsFrame s f)
    (hr : frameEncode f = .ok r) : (r ++ be32 (crc32 r)).length = encodedLength 4 s := by
  rw [List.length_append, frameEncode_length_of_holdsFrame hf hr]
  rfl

/-- Settles O32: the course of an encode command with `frameEncodeFcs`, which answers what `frameEncode` does, the FCS behind
it. -/
theorem frmEncFcsCommand : Obligations.FrmEncFcsCommand := by
  refine ⟨decode_frmEncFcs,
    fun s (hover : s.params.bufBytes < encodedLength 4 s) => encodeCommand_of_oversize frameEncodeFcs hover,
    fun s (hfit : encodedLength 4 s ≤ s.params.bufBytes) =>
      ⟨encodeCommand_of_lacksFrame frameEncodeFcs hfit, fun f hf => ⟨fun hv => ?reserved, fun hp hids => ?output⟩⟩⟩
  case reserved =>
    exact encodeCommand_of_err hfit hf (frameEncodeFcs_of_err ((frameEncode_eq_err_iff f _).2 ⟨hv, rfl⟩))
  case output =>
    have hr := (frameEncode_eq_ok_iff f _).2 ⟨hids, rfl⟩
    obtain ⟨t, hexec, hout, honly⟩ :=
      encodeCommand_of_ok hp hfit hf (frameEncodeFcs_of_ok hr) (length_append_fcs_of_holdsFrame hf hr)
    exact ⟨_, t, hr, hexec, hout, honly⟩

/-- Settles O33: the course of a decode command with `frameDecodeFcs`, which with a matching trailer answers what
`frameDecode` does on the body (O24). -/
theorem frmDecFcsCommand : Obligations.FrmDecFcsCommand := by
  obtain ⟨hshort, htrailer⟩ := fcsDecodeChecksInOrder
  refine ⟨decode_frmDecFcs, fun _ => decodeCommand_of_lacksInput frameDecodeFcs, fun s b hb hlt => ?short,
    fun s body t0 t1 t2 t3 hb => ?trailer⟩
  case short =>
    have hlen : b.length < 4 := by
      obtain ⟨hilen, -⟩ := hb
      rwa [hilen]
    exact decodeCommand_of_err hb (hshort b hlen)
  case trailer =>
    obtain ⟨hmismatch, hmatch⟩ := htrailer body t0 t1 t2 t3
    refine ⟨fun hne => decodeCommand_of_err hb (hmismatch hne), fun heq => ?_⟩
    have hcore := hmatch heq
    exact ⟨fun f hf => decodeCommand_of_ok hb (hcore.trans hf) hf (by simp),
      fun he => decodeCommand_of_err hb (hcore.trans he), fun he => decodeCommand_of_err hb (hcore.trans he)⟩

end Sys2Proof.Machine
end

section
/-! PROOFS. What a failed command leaves (60_exceptions.md R205). -/

namespace Sys2Proof.Machine

/-- A completion shows OK = 0 only when its core function failed, and then the result is not written (R205). -/
theorem complete_of_not_ok {α : Type} {writes : α → State → State} {r : Result α} {s : State}
    (h : (complete writes r s).status.ok = false) : ∃ e, complete writes r s = completeErr (.core e) s := by
  cases r with
  | ok v =>
    rw [complete_ok, completeOk_status] at h
    cases h
  | err e => exact ⟨e, complete_err writes e s⟩

/-- Settles O36: whatever a command's result is, its completion with OK = 0 is that of the core's error. -/
theorem errorsChangeOnlyStatus : Obligations.ErrorsChangeOnlyStatus := by
  refine ⟨fun s => ?codes, fun i s t hexec hok => ?command, fun s w why hp hd => blockMove_of_illegal hp hd⟩
  case codes =>
    exact ⟨completeErr_eq_failedWith _ s, completeErr_eq_failedWith _ s, completeErr_eq_failedWith _ s,
      completeErr_eq_failedWith _ s⟩
  case command =>
    obtain ⟨r, rfl⟩ | ⟨r, rfl⟩ | ⟨r, rfl⟩ := exec_next_cases hexec <;> exact complete_of_not_ok hok

end Sys2Proof.Machine
end

section
/-! PROOFS. The reset input: every reset value, the abandoned command, and the first command after it
(70_reset_and_hazards.md R230 to R232). -/

namespace Sys2Proof.Machine

open Sys2Proof.Safety

/-- Empty storage holds no value at any index (R25). -/
@[simp] theorem Memory.read_nil {α : Type} (i : Nat) : Memory.read ([] : List (Nat × α)) i = none := rfl

/-- STATUS reads 0 after reset (R230). -/
theorem resetInput_status_word (s : State) : (resetInput s).status.word = 0#32 := by
  rw [resetInput_status]
  decide

/-- After issue STATUS reads as BUSY alone (R31, R32). -/
@[simp] theorem Status.issued_word : Status.issued.word = 1#32 := by decide

/-- The reset state keeps nothing of the pending command and of STATUS, so an abandoned command leaves no trace (R231). -/
theorem resetInput_of_pend_status (s : State) (p : Option Word) (st : Status) :
    resetInput { s with pend := p, status := st } = resetInput s := rfl

/-- A CMD write to an idle block issues the word, whatever it encodes (R31). -/
theorem hostWrite_cmd_of_idle {s : State} (hb : s.status.busy = false) (w : Word) :
    hostWrite 0x00000#18 w s = .next (issue w s) :=
  busWrite_of_idle (legalAccess_cmd_iff.2 rfl) hb

/-- Settles O44: the value of each location after reset, then that of an abandoned command nothing is left. -/
theorem resetInputRestoresEveryValue : Obligations.ResetInputRestoresEveryValue := by
  intro s
  refine ⟨resetInput_status_word s, resetInput_pend s, resetInput_ilen s, resetInput_olen s, resetInput_vcount s,
    resetInput_dstH s, resetInput_dstL s, resetInput_srcH s, resetInput_srcL s, resetInput_etype s, resetInput_tag s,
    fun j => ?vlan, fun k => ?ibuf, fun k => ?obuf, resetInput_of_pend_status s⟩
  case vlan => rw [resetInput_vlan, Memory.read_nil]
  case ibuf => rw [resetInput_ibuf, Memory.read_nil]
  case obuf => rw [resetInput_obuf, Memory.read_nil]

/-- Settles O45: reset leaves the block idle, and an idle block issues any word written to CMD. -/
theorem resetBlockAcceptsACommandAtOnce : Obligations.ResetBlockAcceptsACommandAtOnce := by
  intro s w
  have hidle : (resetInput s).status.busy = false := by rw [resetInput_status]
  exact ⟨hidle, issue w (resetInput s), hostWrite_cmd_of_idle hidle w, issue_pend w _, Status.issued_word⟩

end Sys2Proof.Machine
end

section
/-! PROOFS. The write hazard: what a busy block answers to a host write (70_reset_and_hazards.md R240). -/

namespace Sys2Proof.Machine

/-- A legal write to a busy block is the fault BusyWrite, wherever it goes (R240; an unmapped address too, log entry 8). -/
theorem busWrite_of_busy {w : Width} {a : BusAddr} {s : State} (hl : legalAccess w a = true)
    (hb : s.status.busy = true) (d : Word) : busWrite w a d s = .fault .busyWrite := by
  simp [busWrite, hl, hb]

/-- Settles O56: a correctly formed write is a legal access of its window, and a busy block faults on it before the location
is looked at. -/
theorem writesWhileBusyFault : Obligations.WritesWhileBusyFault := by
  intro s d hb
  refine ⟨fun a hlow haligned _ => ?word, fun a b hhigh _ => ?byte⟩
  case word => exact busWrite_of_busy ((legalAccess_below_buffers_iff hlow).2 ⟨rfl, haligned⟩) hb d
  case byte => exact busWrite_of_busy ((legalAccess_buffers_iff hhigh).2 rfl) hb (b.zeroExtend 32)

end Sys2Proof.Machine
end

section
/-! PROOFS. Byte order: the bytes of a value and the value of bytes are inverse to each other (20_memory.md R54, R55). -/

namespace Sys2Proof.Machine

theorem rd16be_append (pre b : Bytes) : rd16be (pre ++ b) pre.length = rd16be b 0 := by
  simp [rd16be, List.getElem?_append_right]

theorem rd32be_append (pre b : Bytes) : rd32be (pre ++ b) pre.length = rd32be b 0 := by
  simp [rd32be, List.getElem?_append_right]

/-- A word read back from its four bytes (R54, R55). -/
theorem be32_join (v : Word) :
    v.extractLsb' 24 8 ++ v.extractLsb' 16 8 ++ v.extractLsb' 8 8 ++ v.extractLsb' 0 8 = v := by
  rw [BitVec.extractLsb'_append_extractLsb'_eq_extractLsb' (start₂ := 24) rfl,
    BitVec.extractLsb'_append_extractLsb'_eq_extractLsb' (start₂ := 16) rfl,
    BitVec.extractLsb'_append_extractLsb'_eq_extractLsb' (start₂ := 8) rfl]
  exact BitVec.extractLsb'_eq_self

/-- A hardware address read back from its six bytes (R22, R142). -/
theorem macBytes_join (m : MacAddr) :
    m.extractLsb' 40 8 ++ m.extractLsb' 32 8 ++ m.extractLsb' 24 8 ++ m.extractLsb' 16 8 ++ m.extractLsb' 8 8 ++
      m.extractLsb' 0 8 = m := by
  rw [BitVec.extractLsb'_append_extractLsb'_eq_extractLsb' (start₂ := 40) rfl,
    BitVec.extractLsb'_append_extractLsb'_eq_extractLsb' (start₂ := 32) rfl,
    BitVec.extractLsb'_append_extractLsb'_eq_extractLsb' (start₂ := 24) rfl,
    BitVec.extractLsb'_append_extractLsb'_eq_extractLsb' (start₂ := 16) rfl,
    BitVec.extractLsb'_append_extractLsb'_eq_extractLsb' (start₂ := 8) rfl]
  exact BitVec.extractLsb'_eq_self

/-- A byte of a value that ends in the byte `b`, above `b`. -/
theorem extractLsb'_append_byte {n k : Nat} (x : BitVec n) (b : Byte) (h : 8 ≤ k) :
    (x ++ b).extractLsb' k 8 = x.extractLsb' (k - 8) 8 := BitVec.extractLsb'_append_eq_of_le h

theorem extractLsb'_append_byte_low {n : Nat} (x : BitVec n) (b : Byte) : (x ++ b).extractLsb' 0 8 = b :=
  BitVec.extractLsb'_append_eq_right

theorem be16_append (b0 b1 : Byte) : be16 (b0 ++ b1) = [b0, b1] := by
  simp [be16, extractLsb'_append_byte (n := 8), extractLsb'_append_byte_low (n := 8)]

theorem be32_append (b0 b1 b2 b3 : Byte) : be32 (b0 ++ b1 ++ b2 ++ b3) = [b0, b1, b2, b3] := by
  simp [be32, extractLsb'_append_byte (n := 8), extractLsb'_append_byte_low (n := 8),
    extractLsb'_append_byte (n := 16), extractLsb'_append_byte_low (n := 16),
    extractLsb'_append_byte (n := 24), extractLsb'_append_byte_low (n := 24)]

theorem macBytes_append (b0 b1 b2 b3 b4 b5 : Byte) :
    macBytes (b0 ++ b1 ++ b2 ++ b3 ++ b4 ++ b5) = [b0, b1, b2, b3, b4, b5] := by
  simp [macBytes, extractLsb'_append_byte (n := 8), extractLsb'_append_byte_low (n := 8),
    extractLsb'_append_byte (n := 16), extractLsb'_append_byte_low (n := 16),
    extractLsb'_append_byte (n := 24), extractLsb'_append_byte_low (n := 24),
    extractLsb'_append_byte (n := 32), extractLsb'_append_byte_low (n := 32),
    extractLsb'_append_byte (n := 40), extractLsb'_append_byte_low (n := 40)]

theorem rd16be_be16 (v : Half) (post : Bytes) : rd16be (be16 v ++ post) 0 = v := be16_join v

theorem rd32be_be32 (v : Word) (post : Bytes) : rd32be (be32 v ++ post) 0 = v := be32_join v

/-- Settles O5: the bytes before the place are skipped, and the value's own bytes join to it. -/
theorem bigEndianReadsGiveBackWrites : Obligations.BigEndianReadsGiveBackWrites := by
  refine ⟨fun pre post v => ?half, fun pre post v => ?word⟩
  case half => rw [List.append_assoc, rd16be_append, rd16be_be16]
  case word => rw [List.append_assoc, rd32be_append, rd32be_be32]

end Sys2Proof.Machine
end

section
/-! PROOFS. The VLAN tag codec as a pair (40_vlan_tag.md R100, R105). -/

namespace Sys2Proof.Machine

theorem tciPack_tciUnpack (w : Half) : tciPack (tciUnpack w) = w := by
  rw [tciPack, tciUnpack, BitVec.extractLsb'_append_extractLsb'_eq_extractLsb' (start₂ := 13) rfl,
    BitVec.extractLsb'_append_extractLsb'_eq_extractLsb' (start₂ := 12) rfl]
  exact BitVec.extractLsb'_eq_self

/-- Settles O7: both round trips of a tag body. -/
theorem tagBodyPackingIsABijection : Obligations.TagBodyPackingIsABijection :=
  ⟨tciUnpack_tciPack, tciPack_tciUnpack⟩

/-- Exactly the body of a tag with a good ID decodes to it (R102, R105). -/
theorem vlanDecode_eq_ok_iff (b : Bytes) (t : VlanTag) :
    vlanDecode b = .ok t ↔ t.vid ≠ reservedVid ∧ b = be16 (tciPack t) := by
  constructor
  · intro h
    by_cases hlen : b.length = 2
    · obtain ⟨b0, b1, rfl⟩ := List.length_eq_two.1 hlen
      rw [vlanDecode_two] at h
      split_ifs at h with hv
      cases h
      exact ⟨hv, by rw [tciPack_tciUnpack, be16_append]⟩
    · rw [vlanDecode_length hlen] at h
      cases h
  · rintro ⟨hv, rfl⟩
    exact vlanDecode_be16_tciPack hv

/-- The ID of two bytes is reserved exactly when its twelve bits are ones. -/
theorem vid_append_eq_reserved_iff (b0 b1 : Byte) :
    b0.extractLsb' 0 4 ++ b1 = 0xFFF#12 ↔ b1 = 0xFF#8 ∧ b0.extractLsb' 0 4 = 0xF#4 := by
  constructor
  · intro h
    have hhi := congrArg (BitVec.extractLsb' 8 4) h
    have hlo := congrArg (BitVec.extractLsb' 0 8) h
    rw [BitVec.extractLsb'_append_eq_of_le (by omega)] at hhi
    rw [BitVec.extractLsb'_append_eq_right] at hlo
    exact ⟨hlo, by simpa using hhi⟩
  · rintro ⟨rfl, h⟩
    rw [h]
    rfl

/-- Settles O10: encoding answers exactly the bodies that decode, and both reject the reserved ID only. -/
theorem vlanCodecPairLaws : Obligations.VlanCodecPairLaws := by
  refine ⟨fun t hv => ?encodeDecode, fun b hlen hv => ?decodeEncode, fun t => ?encodeErr, fun b => ?decodeErr⟩
  case encodeDecode =>
    exact ⟨_, (vlanEncode_eq_ok_iff t _).2 ⟨hv, rfl⟩, rfl, vlanDecode_be16_tciPack hv⟩
  case decodeEncode =>
    obtain ⟨b0, b1, rfl⟩ := List.length_eq_two.1 hlen
    have hbody : [b0, b1] = be16 (tciPack (tciUnpack (b0 ++ b1))) := by rw [tciPack_tciUnpack, be16_append]
    exact ⟨tciUnpack (b0 ++ b1), (vlanDecode_eq_ok_iff _ _).2 ⟨hv, hbody⟩, (vlanEncode_eq_ok_iff _ _).2 ⟨hv, hbody⟩⟩
  case encodeErr => exact (vlanEncode_eq_err_iff t _).trans (and_iff_left rfl)
  case decodeErr =>
    by_cases hlen : b.length = 2
    · obtain ⟨b0, b1, rfl⟩ := List.length_eq_two.1 hlen
      rw [vlanDecode_two, tciUnpack_append, reservedVid]
      simp only [ite_eq_left_iff, reduceCtorEq, imp_false, not_not, vid_append_eq_reserved_iff, List.cons.injEq,
        and_true, and_assoc, exists_eq_left']
    · rw [vlanDecode_length hlen]
      refine ⟨fun h => (nomatch h), ?_⟩
      rintro ⟨b0, rfl, -⟩
      exact absurd rfl hlen

end Sys2Proof.Machine
end

section
/-! PROOFS. The frame decoder on wire bytes, and the round trips of encoder and decoder (42_frame_decode.md R145 to R151). -/

namespace Sys2Proof.Machine

open Sys2Proof.Safety

/-- R146's table: what the length check accepts. -/
theorem payloadAccepted_iff (nTags rem : Nat) :
    payloadAccepted nTags rem = true ↔ nTags = 0 ∧ (rem = 42 ∨ 46 ≤ rem) ∨ nTags ≠ 0 ∧ 42 ≤ rem := by
  rw [payloadAccepted, Bool.not_eq_true', decide_eq_false_iff_not, minPayload]
  split_ifs <;> omega

theorem padding_eq_replicate (payload : Bytes) : padding payload = List.replicate (46 - payload.length) 0x00#8 := by
  rw [padding, zeros, minPayload, show max payload.length 46 - payload.length = 46 - payload.length by omega]

/-- Behind the addresses of a frame's wire bytes the loop finds its chain and its type, and the rest is payload (R145, R148). -/
theorem readBody_wireBytes {f : Frame} (hids : IdsValid f.vlan) (hetype : f.etype ≠ vlanMarker) (b : Bytes) :
    readBody ((wireBytes f ++ b).drop 12) = .ok (f.vlan, f.etype, f.payload ++ b) := by
  rw [drop_wireBytes, readBody_chainBytes hids, readBody_be16, readChain_end hetype, withTags, List.append_nil]

theorem macAt_dst_wireBytes (f : Frame) (b : Bytes) : macAt (wireBytes f ++ b) 0 = f.dst := macBytes_join f.dst

theorem macAt_src_wireBytes (f : Frame) (b : Bytes) : macAt (wireBytes f ++ b) 6 = f.src := macBytes_join f.src

/-- On the wire bytes of a frame, whatever stands behind them, only the length check decides (R146): it passes with the bytes
behind taken as payload. -/
theorem frameDecode_wireBytes_append {f : Frame} (hids : IdsValid f.vlan) (hetype : f.etype ≠ vlanMarker) (b : Bytes) :
    frameDecode (wireBytes f ++ b) =
      if payloadAccepted f.vlan.length (f.payload ++ b).length then .ok { f with payload := f.payload ++ b }
      else .err .truncatedInput := by
  rw [frameDecode_eq_assembleFrame, readBody_wireBytes hids hetype, assembleFrame, macAt_dst_wireBytes,
    macAt_src_wireBytes]

/-- Settles O20: the encoder's bytes are the wire bytes and a padding that passes the length check. -/
theorem encodeThenDecodeGivesThePaddedFrame : Obligations.EncodeThenDecodeGivesThePaddedFrame := by
  intro f hids hetype
  refine ⟨_, (frameEncode_eq_ok_iff f _).2 ⟨hids, rfl⟩, ?_⟩
  have haccepted : payloadAccepted f.vlan.length (f.payload ++ padding f.payload).length = true := by
    rw [payloadAccepted_iff, List.length_append, length_padding]
    omega
  rw [frameDecode_wireBytes_append hids hetype, if_pos haccepted, padding_eq_replicate]

theorem frameDecode_wireBytes {f : Frame} (hids : IdsValid f.vlan) (hetype : f.etype ≠ vlanMarker) :
    frameDecode (wireBytes f) =
      if payloadAccepted f.vlan.length f.payload.length then .ok f else .err .truncatedInput := by
  simpa using frameDecode_wireBytes_append hids hetype []

/-- Settles O19: only the length check decides, and its table has these rows. -/
theorem frameDecodeOfWireBytes : Obligations.FrameDecodeOfWireBytes := by
  intro f hids hetype
  simp only [frameDecode_wireBytes hids hetype, ← List.length_eq_zero_iff, ne_eq]
  refine ⟨fun h => if_pos ((payloadAccepted_iff _ _).2 h), fun h => if_neg fun haccepted => ?_⟩
  rw [payloadAccepted_iff] at haccepted
  omega

/-- What the loop answers, written out again, is what it read: no tag of it is reserved and its type is no marker (R145). -/
theorem readChain_eq_ok {cand etype : Half} {rest payload : Bytes} {ts : List VlanTag}
    (h : readChain cand rest = .ok (ts, etype, payload)) :
    etype ≠ vlanMarker ∧ IdsValid ts ∧ be16 cand ++ rest = chainBytes ts ++ be16 etype ++ payload := by
  fun_induction readChain cand rest generalizing ts with
  | case1 => cases h
  | case2 => cases h
  | case3 b0 b1 e0 e1 rest t hbody us etype' payload' hchain ih =>
    cases h
    obtain ⟨hetype, hids, hbytes⟩ := ih hchain
    obtain ⟨hv, htag⟩ := (vlanDecode_eq_ok_iff _ _).1 hbody
    refine ⟨hetype, List.forall_mem_cons.2 ⟨hv, hids⟩, ?_⟩
    calc be16 vlanMarker ++ b0 :: b1 :: e0 :: e1 :: rest
        = be16 vlanMarker ++ [b0, b1] ++ (be16 (e0 ++ e1) ++ rest) := by rw [be16_append]; rfl
      _ = chainBytes (t :: us) ++ be16 etype ++ payload := by
        rw [hbytes, htag, chainBytes_cons]; simp only [List.append_assoc]
  | case4 => cases h
  | case5 cand rest hcand => cases h; exact ⟨hcand, List.forall_mem_nil _, rfl⟩

/-- What decodes is the wire bytes of the frame it decodes to (R151). -/
theorem frameDecode_eq_ok {b : Bytes} {f : Frame} (h : frameDecode b = .ok f) :
    f.etype ≠ vlanMarker ∧ IdsValid f.vlan ∧ b = wireBytes f := by
  unfold frameDecode at h
  split at h
  · rename_i d0 d1 d2 d3 d4 d5 s0 s1 s2 s3 s4 s5 e0 e1 rest
    split at h
    · cases h
    · rename_i tags etype payload hchain
      split at h
      · cases h
        obtain ⟨hetype, hids, hbytes⟩ := readChain_eq_ok hchain
        rw [be16_append] at hbytes
        refine ⟨hetype, hids, ?_⟩
        rw [wireBytes, macBytes_append, macBytes_append]
        simp only [List.append_assoc] at hbytes ⊢
        rw [← hbytes]
        rfl
      · cases h
  · cases h

/-- Settles O21: the input is the frame's wire bytes, to which the encoder adds the padding. -/
theorem decodeThenEncodeGivesThePaddedBytes : Obligations.DecodeThenEncodeGivesThePaddedBytes := by
  intro b f h
  obtain ⟨hetype, hids, hwire⟩ := frameDecode_eq_ok h
  refine ⟨hetype, hids, (frameEncode_eq_ok_iff f _).2 ⟨hids, ?_⟩⟩
  rw [hwire, padding_eq_replicate]

/-- Settles O18: the loop strips the good tags and meets the bad body with a next candidate behind it. -/
theorem reservedIdInChainIsRejected : Obligations.ReservedIdInChainIsRejected := by
  intro dst src ts bad tail hids hbad htail
  have hdrop : (macBytes dst ++ macBytes src ++ chainBytes ts ++ chainBytes [bad] ++ tail).drop 12 =
      chainBytes ts ++ (be16 vlanMarker ++ (be16 (tciPack bad) ++ tail)) := by
    simp only [List.append_assoc]
    rfl
  have hbody : vlanDecode (be16 (tciPack bad)) = .err .invalidVlanId := by
    rw [be16, vlanDecode_two, be16_join, tciUnpack_tciPack, if_pos (show bad.vid = reservedVid from hbad)]
  rw [frameDecode_eq_assembleFrame, hdrop, readBody_chainBytes hids, readBody_be16,
    readChain_body_err (length_be16 _) htail hbody]
  rfl

end Sys2Proof.Machine
end

section
/-! PROOFS. The CRC register: a byte moves it injectively, and four bytes that carry it reach a constant (43_fcs.md R170). -/

namespace Sys2Proof.Machine

/-- The top bit of a shift is the bit shifted out, because the polynomial's top bit is 1 and the shift's own is 0. -/
theorem getLsbD_crcShift_top (c : Word) : (crcShift c).getLsbD 31 = c.getLsbD 0 := by
  unfold crcShift
  split_ifs with h0
  · rw [h0]; simp
  · simpa using h0

theorem crcShift_of_lsb_true {c : Word} (h : c.getLsbD 0 = true) : crcShift c = (c >>> 1) ^^^ 0xEDB88320#32 := if_pos h

theorem crcShift_of_lsb_false {c : Word} (h : c.getLsbD 0 = false) : crcShift c = c >>> 1 :=
  if_neg (by rw [h]; exact Bool.false_ne_true)

/-- A word is its lowest bit and the rest. -/
theorem eq_of_lsb_eq_of_shift_eq {c d : Word} (h0 : c.getLsbD 0 = d.getLsbD 0) (h : c >>> 1 = d >>> 1) : c = d := by
  apply BitVec.eq_of_getLsbD_eq
  intro i hi
  cases i with
  | zero => exact h0
  | succ i => simpa [Nat.add_comm] using congrArg (BitVec.getLsbD · i) h

/-- No two register values shift to the same one: the bit shifted out stands on top of the result, and says whether the
polynomial was added. -/
theorem crcShift_injective : Function.Injective crcShift := by
  intro c d h
  have h0 : c.getLsbD 0 = d.getLsbD 0 := by rw [← getLsbD_crcShift_top, h, getLsbD_crcShift_top]
  refine eq_of_lsb_eq_of_shift_eq h0 ?_
  cases hd : d.getLsbD 0 with
  | true =>
    rw [crcShift_of_lsb_true (h0.trans hd), crcShift_of_lsb_true hd] at h
    exact (BitVec.xor_left_inj _).1 h
  | false => rwa [crcShift_of_lsb_false (h0.trans hd), crcShift_of_lsb_false hd] at h

theorem crcShifts_injective (n : Nat) : Function.Injective (crcShifts n) := by
  induction n with
  | zero => exact Function.injective_id
  | succ n ih => exact ih.comp crcShift_injective

theorem crcByte_left_injective (b : Byte) : Function.Injective (crcByte · b) := by
  intro c d h
  exact (BitVec.xor_left_inj _).1 (crcShifts_injective 8 h)

theorem crcByte_right_injective (c : Word) : Function.Injective (crcByte c) := by
  intro b d h
  have hext : b.zeroExtend 32 = d.zeroExtend 32 := (BitVec.xor_right_inj _).1 (crcShifts_injective 8 h)
  simpa using congrArg (BitVec.setWidth 8) hext

/-- Two register values stay apart whatever bytes follow. -/
theorem foldl_crcByte_injective (b : Bytes) : Function.Injective (b.foldl crcByte) := by
  induction b with
  | nil => exact Function.injective_id
  | cons x b ih => exact ih.comp (crcByte_left_injective x)

/-- The CRC tells apart two byte sequences that differ in one byte. -/
theorem crc32_set_ne {b : Bytes} {k : Nat} {x : Byte} (hk : k < b.length) (hx : x ≠ b[k]) :
    crc32 (b.set k x) ≠ crc32 b := by
  intro h
  have hset : b.set k x = b.take k ++ x :: b.drop (k + 1) := List.set_eq_take_append_cons_drop.trans (if_pos hk)
  have hb : b = b.take k ++ b[k] :: b.drop (k + 1) := by rw [← List.drop_eq_getElem_cons hk, List.take_append_drop]
  rw [hset] at h
  conv_rhs at h => rw [hb]
  rw [crc32_append, crc32_append, List.foldl_cons, List.foldl_cons] at h
  exact hx (crcByte_right_injective _ (foldl_crcByte_injective _ ((BitVec.xor_left_inj _).1 h)))

/-- Adding a value to the register after a shift is adding it, one place up, before. -/
theorem crcShift_xor {c d : Word} (h : d.getLsbD 31 = false) : crcShift c ^^^ d = crcShift (c ^^^ d <<< 1) := by
  have hlsb : (c ^^^ d <<< 1).getLsbD 0 = c.getLsbD 0 := by simp
  have hshift : (c ^^^ d <<< 1) >>> 1 = c >>> 1 ^^^ d := by
    apply BitVec.eq_of_getLsbD_eq
    intro i hi
    by_cases htop : i = 31
    · subst htop
      simpa using h
    · simp [show 1 + i < 32 by omega, BitVec.getLsbD_eq_getElem hi]
  cases hc : c.getLsbD 0 with
  | true =>
    rw [crcShift_of_lsb_true hc, crcShift_of_lsb_true (hlsb.trans hc), hshift, BitVec.xor_assoc, BitVec.xor_assoc,
      BitVec.xor_comm d]
  | false => rw [crcShift_of_lsb_false hc, crcShift_of_lsb_false (hlsb.trans hc), hshift]

theorem crcShifts_xor {n : Nat} {c d : Word} (h : ∀ i, 32 - n ≤ i → d.getLsbD i = false) (hn : n ≤ 32) :
    crcShifts n c ^^^ d = crcShifts n (c ^^^ d <<< n) := by
  induction n generalizing c with
  | zero => simp [crcShifts]
  | succ n ih =>
    have htop : (d <<< n).getLsbD 31 = false := by
      rw [BitVec.getLsbD_shiftLeft, h (31 - n) (by omega), Bool.and_false]
    rw [crcShifts_succ, ih (fun i hi => h i (by omega)) (by omega), crcShift_xor htop, crcShifts_succ, ← BitVec.shiftLeft_add]

theorem crcShifts_add (m n : Nat) (c : Word) : crcShifts m (crcShifts n c) = crcShifts (n + m) c := by
  induction n generalizing c with
  | zero => simp [crcShifts]
  | succ n ih => rw [crcShifts_succ, ih, Nat.add_right_comm, crcShifts_succ]

/-- A byte read behind `n` shifts is a byte added `n` places up before them. -/
theorem crcByte_crcShifts {n : Nat} (hn : n ≤ 24) (c : Word) (b : Byte) :
    crcByte (crcShifts n c) b = crcShifts (n + 8) (c ^^^ b.zeroExtend 32 <<< n) := by
  rw [crcByte, crcShifts_xor (fun i hi => ?_) (by omega), crcShifts_add]
  simp [BitVec.getLsbD_of_ge b i (by omega)]

/-- A word is the sum of its bytes in their places. -/
theorem xor_bytes (v : Word) :
    (v.extractLsb' 0 8).zeroExtend 32 ^^^ (v.extractLsb' 8 8).zeroExtend 32 <<< 8 ^^^
      (v.extractLsb' 16 8).zeroExtend 32 <<< 16 ^^^ (v.extractLsb' 24 8).zeroExtend 32 <<< 24 = v := by
  apply BitVec.eq_of_getLsbD_eq
  intro i hi
  interval_cases i <;> simp

/-- Four bytes read least significant first are 32 shifts of the register with their word added. -/
theorem foldl_crcByte_reverse_be32 (c v : Word) : (be32 v).reverse.foldl crcByte c = crcShifts 32 (c ^^^ v) := by
  have hfirst : crcByte c (v.extractLsb' 0 8) = crcShifts 8 (c ^^^ (v.extractLsb' 0 8).zeroExtend 32) := rfl
  show crcByte (crcByte (crcByte (crcByte c (v.extractLsb' 0 8)) (v.extractLsb' 8 8)) (v.extractLsb' 16 8))
    (v.extractLsb' 24 8) = _
  rw [hfirst, crcByte_crcShifts (by omega), crcByte_crcShifts (by omega), crcByte_crcShifts (by omega)]
  conv_rhs => rw [← xor_bytes v]
  simp only [BitVec.xor_assoc]

/-- Settles O27: the trailer cancels the register up to the final complement, so what is left is 32 shifts of a constant. -/
theorem crcResidueOfReversedTrailer : Obligations.CrcResidueOfReversedTrailer := by
  intro b
  have hcancel : b.foldl crcByte 0xFFFFFFFF#32 ^^^ crc32 b = 0xFFFFFFFF#32 := by
    rw [crc32, ← BitVec.xor_assoc, BitVec.xor_self, BitVec.zero_xor]
  rw [crc32_append, foldl_crcByte_reverse_be32, hcancel]
  decide +kernel

end Sys2Proof.Machine
end

section
/-! PROOFS. The FCS frame: its round trip, and that one flipped bit is always detected (43_fcs.md R172 to R178). -/

namespace Sys2Proof.Machine

open Sys2Proof.Safety

theorem be32_injective : Function.Injective be32 := fun v w h => by
  rw [← be32_join v, ← be32_join w]
  simp only [be32, List.cons.injEq, and_true] at h
  obtain ⟨h3, h2, h1, h0⟩ := h
  rw [h3, h2, h1, h0]

/-- A body passes the check with its own CRC behind it (R173). -/
theorem frameDecodeFcs_append_crc (body : Bytes) : frameDecodeFcs (body ++ be32 (crc32 body)) = frameDecode body :=
  (frameDecodeFcs_append body _ _ _ _).trans (if_neg (not_not_intro (be32_join _).symm))

/-- It fails the check with any other four bytes behind it (R173). -/
theorem frameDecodeFcs_of_ne {body trailer : Bytes} (hlen : trailer.length = 4) (hne : trailer ≠ be32 (crc32 body)) :
    frameDecodeFcs (body ++ trailer) = .err .checksumMismatch := by
  match trailer, hlen with
  | [t0, t1, t2, t3], _ =>
    rw [frameDecodeFcs_append, if_pos]
    intro hcrc
    exact hne (by rw [hcrc, be32_append])

theorem frameEncodeFcs_eq_ok_iff (f : Frame) (out : Bytes) :
    frameEncodeFcs f = .ok out ↔ ∃ base, frameEncode f = .ok base ∧ out = base ++ be32 (crc32 base) := by
  cases h : frameEncode f with
  | ok base => simp [frameEncodeFcs_of_ok h, eq_comm]
  | err e => simp [frameEncodeFcs_of_err h]

/-- A byte with a bit flipped is another byte. -/
theorem flipBit_ne (b : Byte) {j : Nat} (hj : j < 8) : b ^^^ 1#8 <<< j ≠ b := by
  intro h
  simpa [hj] using congrArg (BitVec.getLsbD · j) h

theorem set_ne_self {b : Bytes} {k : Nat} {x : Byte} (hk : k < b.length) (hx : x ≠ b[k]) : b.set k x ≠ b := by
  intro h
  have hget : (b.set k x)[k]? = b[k]? := by rw [h]
  rw [List.getElem?_set_self hk, List.getElem?_eq_getElem hk] at hget
  exact hx (Option.some.inj hget)

/-- An FCS frame with one byte changed, in the body or in the trailer, fails the check (R177). -/
theorem frameDecodeFcs_set {body : Bytes} {k : Nat} {x : Byte} (hk : k < (body ++ be32 (crc32 body)).length)
    (hx : x ≠ (body ++ be32 (crc32 body))[k]) :
    frameDecodeFcs ((body ++ be32 (crc32 body)).set k x) = .err .checksumMismatch := by
  by_cases hbody : k < body.length
  · rw [List.getElem_append_left hbody] at hx
    rw [List.set_append_left k x hbody]
    exact frameDecodeFcs_of_ne rfl fun h => crc32_set_ne hbody hx (be32_injective h).symm
  · rw [List.length_append] at hk
    rw [List.getElem_append_right (by omega)] at hx
    rw [List.set_append_right k x (by omega)]
    exact frameDecodeFcs_of_ne (by rw [List.length_set]; rfl) (set_ne_self (by omega) hx)

/-- Settles O25: a flipped bit changes one byte of a body with its CRC. -/
theorem everyFlippedBitIsDetected : Obligations.EveryFlippedBitIsDetected := by
  intro f b henc k hk j hj
  obtain ⟨base, -, rfl⟩ := (frameEncodeFcs_eq_ok_iff f b).1 henc
  exact frameDecodeFcs_set hk (flipBit_ne _ hj)

/-- Settles O26: the check passes, and the base encoding decodes to the padded frame (O20). -/
theorem fcsRoundTripGivesThePaddedFrame : Obligations.FcsRoundTripGivesThePaddedFrame := by
  intro f hids hetype
  obtain ⟨base, henc, hdec⟩ := encodeThenDecodeGivesThePaddedFrame f hids hetype
  exact ⟨_, frameEncodeFcs_of_ok henc, (frameDecodeFcs_append_crc base).trans hdec⟩

/-- Settles O23: the answer is `frameEncode`'s with the CRC's four bytes behind it. -/
theorem fcsEncodeAppendsBigEndianCrc : Obligations.FcsEncodeAppendsBigEndianCrc := by
  refine fun f => ⟨fun e => frameEncodeFcs_of_err, fun base => frameEncodeFcs_of_ok, fun out h => ?length⟩
  case length =>
    obtain ⟨base, henc, rfl⟩ := (frameEncodeFcs_eq_ok_iff f out).1 h
    rw [List.length_append, frameEncode_length henc]
    rfl

end Sys2Proof.Machine
end

section
/-! PROOFS. Everything a command can do, with the sizes of what it writes (42_frame_decode.md R149, 60_exceptions.md R205,
R206). -/

namespace Sys2Proof.Machine

open Sys2Proof.Safety

/-- What the FCS decoder decodes is the body in front of the trailer (R173). -/
theorem frameDecode_of_frameDecodeFcs {b : Bytes} {f : Frame} (h : frameDecodeFcs b = .ok f) :
    frameDecode (b.take (b.length - 4)) = .ok f := by
  unfold frameDecodeFcs at h
  split_ifs at h
  exact h

theorem frameDecodeFcs_length {b : Bytes} {f : Frame} (h : frameDecodeFcs b = .ok f) :
    14 + 4 * f.vlan.length + f.payload.length ≤ b.length ∧ 42 ≤ f.payload.length := by
  obtain ⟨hlen, hpayload⟩ := frameDecode_length (frameDecode_of_frameDecodeFcs h)
  rw [List.length_take] at hlen
  exact ⟨by omega, hpayload⟩

/-- A frame with its smallest payload that comes out of no more than ILEN bytes fits VLAN[] and OBUF (R4, R149). -/
theorem frame_fits {s : State} {f : Frame} (hinv : Inv s)
    (hlen : 14 + 4 * f.vlan.length + f.payload.length ≤ s.ilen.toNat) (hpayload : 42 ≤ f.payload.length) :
    f.vlan.length ≤ s.params.maxTags ∧ f.payload.length + 14 ≤ s.ilen.toNat ∧ s.ilen.toNat ≤ s.params.bufBytes := by
  have hilen := hinv.ilen_le
  have hwf := hinv.params
  simp only [Params.wf, Bool.and_eq_true, decide_eq_true_eq] at hwf
  refine ⟨?_, ?_, hilen⟩ <;> omega

/-- Settles O22: both decoders take tags and payload out of the input bytes, the payload being no shorter than 42 bytes. -/
theorem decodedFramesFit : Obligations.DecodedFramesFit := by
  rintro s b f hinv hb (h | h)
  · exact frameDecode_fits hinv hb h
  · obtain ⟨hlen, hpayload⟩ := frameDecodeFcs_length h
    obtain ⟨hilen, -⟩ := hb
    exact frame_fits hinv (hilen ▸ hlen) hpayload

/-- The commands whose result is an output alone (R36). -/
def isEncode : Instr → Bool
  | .vlanEnc | .frmEnc | .frmEncFcs => true
  | .vlanDec | .frmDec | .frmDecFcs => false

/-- The commands whose result is a frame (R149, R176). -/
def isFrameDecode : Instr → Bool
  | .frmDec | .frmDecFcs => true
  | .vlanEnc | .vlanDec | .frmEnc | .frmEncFcs => false

/-- How a command that answers a next state completes: with an error, or with its own kind of result, of bounded size. -/
inductive Completion (i : Instr) (s : State) : State → Prop
  | err (e : ErrKind) : Completion i s (completeErr (.core e) s)
  | output (r : Bytes) (hi : isEncode i = true) (hlen : r.length = 2 ∨ r.length ≤ s.params.bufBytes) :
      Completion i s (completeOk (writeOutput r s))
  | tag (g : VlanTag) (hi : i = .vlanDec) : Completion i s (completeOk (writeTag g s))
  | frame (f : Frame) (hi : isFrameDecode i = true) (hlen : 14 + 4 * f.vlan.length + f.payload.length ≤ s.ilen.toNat)
      (hpayload : 42 ≤ f.payload.length) : Completion i s (completeOk (writeFrame f s))

/-- An encode command's output has the length it checked (R121, R125, R175). -/
theorem completion_of_encodeCommand {i : Instr} {trailer : Nat} {core : Frame → Result Bytes} {s t : State}
    (hi : isEncode i = true) (hcore : ∀ f r, HoldsFrame s f → core f = .ok r → r.length = encodedLength trailer s)
    (h : encodeCommand trailer core s = .next t) : Completion i s t := by
  obtain ⟨hfit, f, hf, rfl⟩ := (encodeCommand_next_iff trailer core s t).1 h
  cases hr : core f with
  | ok r => exact .output r hi (.inr (hcore f r hf hr ▸ hfit))
  | err e => exact .err e

/-- A decode command's frame comes out of the input bytes (R145, R173). -/
theorem completion_of_decodeCommand {i : Instr} {core : Bytes → Result Frame} {s t : State}
    (hi : isFrameDecode i = true)
    (hcore : ∀ b f, core b = .ok f → 14 + 4 * f.vlan.length + f.payload.length ≤ b.length ∧ 42 ≤ f.payload.length)
    (h : decodeCommand core s = .next t) : Completion i s t := by
  obtain ⟨b, ⟨hilen, -⟩, rfl⟩ := (decodeCommand_next_iff core s t).1 h
  cases hf : core b with
  | ok f =>
    obtain ⟨hlen, hpayload⟩ := hcore b f hf
    exact .frame f hi (hilen ▸ hlen) hpayload
  | err e => exact .err e

/-- Everything a command can do. -/
theorem completion_of_exec {i : Instr} {s t : State} (h : exec i s = .next t) : Completion i s t := by
  cases i with
  | vlanEnc =>
    obtain ⟨g, -, rfl⟩ := (execVlanEnc_next_iff s t).1 h
    cases hr : vlanEncode g with
    | ok r =>
      obtain ⟨-, rfl⟩ := (vlanEncode_eq_ok_iff g r).1 hr
      exact .output _ rfl (.inl rfl)
    | err e => exact .err e
  | vlanDec =>
    obtain ⟨b, -, rfl⟩ := (execVlanDec_next_iff s t).1 h
    cases vlanDecode b with
    | ok g => exact .tag g rfl
    | err e => exact .err e
  | frmEnc => exact completion_of_encodeCommand rfl (fun _ _ => frameEncode_length_of_holdsFrame) h
  | frmDec =>
    refine completion_of_decodeCommand rfl (fun b f hf => ?_) h
    obtain ⟨hlen, hpayload⟩ := frameDecode_length hf
    exact ⟨hlen.ge, hpayload⟩
  | frmEncFcs =>
    refine completion_of_encodeCommand rfl (fun f r hf hr => ?_) h
    obtain ⟨base, hbase, rfl⟩ := (frameEncodeFcs_eq_ok_iff f r).1 hr
    exact length_append_fcs_of_holdsFrame hf hbase
  | frmDecFcs => exact completion_of_decodeCommand rfl (fun _ _ => frameDecodeFcs_length) h

end Sys2Proof.Machine
end

section
/-! PROOFS. The invariant: it holds at reset and every step keeps it (10_state.md sections 5 and 6). -/

namespace Sys2Proof.Machine

open Sys2Proof.Safety

theorem inv_resetWith {p : Params} (hp : p.wf = true) : Inv (State.resetWith p) where
  params := hp
  busy_iff_pending := rfl
  status_legal := rfl
  ilen_le := Nat.zero_le _
  olen_le := Nat.zero_le _
  vcount_le := Nat.zero_le _
  ibuf_wf := .nil
  obuf_wf := .nil
  vlan_wf := .nil
  ibuf_lt := List.forall_mem_nil _
  vlan_lt := List.forall_mem_nil _
  obuf_valued := fun _ => rfl

/-- Settles O59: every reset value is in bounds, and the largest parameters are legal. -/
theorem invariantHoldsAtReset : Obligations.InvariantHoldsAtReset :=
  ⟨fun _ => inv_resetWith, inv_resetWith rfl⟩

/-- The invariant speaks of the block's own fields only. -/
theorem inv_withHostSide {s : State} (h : Inv s) (issues : Nat) (program : List HostStmt) (reads : List HostRead)
    (turns : List Agent) : Inv { s with issues := issues, program := program, reads := reads, turns := turns } :=
  ⟨h.params, h.busy_iff_pending, h.status_legal, h.ilen_le, h.olen_le, h.vcount_le, h.ibuf_wf, h.obuf_wf, h.vlan_wf,
    h.ibuf_lt, h.vlan_lt, h.obuf_valued⟩

theorem inv_takeTurn {s : State} (h : Inv s) : Inv (takeTurn s) := inv_withHostSide h _ _ _ _

theorem inv_recordRead {s : State} (h : Inv s) (a : BusAddr) (v : Word) : Inv (recordRead a v s) :=
  inv_withHostSide h _ _ _ _

theorem inv_resetInput {s : State} (h : Inv s) : Inv (resetInput s) := inv_withHostSide (inv_resetWith h.params) _ _ _ _

/-- PEND and STATUS may change together, to a legal STATUS that is busy exactly with a command pending. -/
theorem inv_withStatus {s : State} (h : Inv s) {st : Status} {p : Option Word} (hbusy : st.busy = p.isSome)
    (hlegal : st.legal = true) : Inv { s with status := st, pend := p } :=
  { h with busy_iff_pending := hbusy, status_legal := hlegal }

theorem inv_issue {s : State} (h : Inv s) (w : Word) : Inv (issue w s) :=
  inv_withHostSide (inv_withStatus h (st := Status.issued) (p := some w) rfl rfl) _ _ _ _

theorem inv_completeErr {s : State} (h : Inv s) (e : CmdError) : Inv (completeErr e s) := by
  refine inv_withStatus h rfl ?_
  cases e with
  | core k => cases k <;> rfl
  | illegalCommand => rfl

theorem inv_completeOk {s : State} (h : Inv s) : Inv (completeOk s) := inv_withStatus h rfl rfl

/-- Storing bytes from index 0 on gives exactly the indices below their count a value (R36). -/
theorem isSome_read_ofList (k : Nat) (r : Bytes) :
    (Memory.read (Memory.ofList 0 r) k).isSome = decide (k < r.length) := by
  rw [Memory.read_ofList, Bool.eq_iff_iff, decide_eq_true_eq]
  simp

theorem inv_writeOutput {s : State} (h : Inv s) {r : Bytes} (hlen : r.length ≤ s.params.bufBytes) :
    Inv (writeOutput r s) := by
  have holen : (writeOutput r s).olen.toNat = r.length := by
    have hmax := bufBytes_le_of_wf h.params
    rw [writeOutput_olen, BitVec.toNat_ofNat, Nat.mod_eq_of_lt (by omega)]
  exact { h with
    olen_le := holen ▸ hlen
    obuf_wf := Memory.ofList_wf 0 r
    obuf_valued := fun k => by rw [holen, writeOutput_obuf, isSome_read_ofList] }

theorem inv_writeTag {s : State} (h : Inv s) (g : VlanTag) : Inv (writeTag g s) := { h with }

theorem inv_writeFrame {s : State} (h : Inv s) {f : Frame} (hvlan : f.vlan.length ≤ s.params.maxTags)
    (hpayload : f.payload.length ≤ s.params.bufBytes) : Inv (writeFrame f s) := by
  refine inv_writeOutput (s := { s with
    dstH := some (f.dst.extractLsb' 32 16), dstL := some (f.dst.extractLsb' 0 32)
    srcH := some (f.src.extractLsb' 32 16), srcL := some (f.src.extractLsb' 0 32)
    etype := some f.etype, vcount := BitVec.ofNat 16 f.vlan.length, vlan := Memory.ofList 0 f.vlan }) ?_ hpayload
  exact { h with
    vcount_le := (Nat.mod_le _ _).trans hvlan
    vlan_wf := Memory.ofList_wf 0 f.vlan
    vlan_lt := fun c hc => by
      have hlt := (Memory.le_of_mem_ofList hc).2
      rw [Nat.zero_add] at hlt
      exact hlt.trans_le hvlan }

/-- A command keeps the invariant: its output or its frame fits. -/
theorem inv_exec {i : Instr} {s t : State} (h : Inv s) (hexec : exec i s = .next t) : Inv t := by
  cases completion_of_exec hexec with
  | err e => exact inv_completeErr h _
  | output r hi hlen =>
    have hfit : r.length ≤ s.params.bufBytes := by
      have hwf := h.params
      simp only [Params.wf, Bool.and_eq_true, decide_eq_true_eq] at hwf
      omega
    exact inv_completeOk (inv_writeOutput h hfit)
  | tag g hi => exact inv_completeOk (inv_writeTag h g)
  | frame f hi hlen hpayload =>
    obtain ⟨hvlan, hilen, hbuf⟩ := frame_fits h hlen hpayload
    exact inv_completeOk (inv_writeFrame h hvlan (by omega))

theorem inv_blockMove {s t : State} (h : Inv s) (hmove : blockMove s = .next t) : Inv t := by
  obtain ⟨-, rfl⟩ | ⟨w, i, -, -, hexec⟩ | ⟨w, why, -, -, rfl⟩ := blockMove_next hmove
  · exact h
  · exact inv_exec h hexec
  · exact inv_completeErr h _

/-- The register window holds no entry of VLAN[] and no byte of IBUF (R30). -/
theorem registerAt_ne_array (n i : Nat) : registerAt n ≠ .vlan i ∧ registerAt n ≠ .ibuf i := by
  unfold registerAt
  split <;> simp

/-- An entry of VLAN[] at an address is one that exists (R41). -/
theorem lt_of_locate_eq_vlan {p : Params} {a : BusAddr} {j : Nat} (h : locate p a = .vlan j) : j < p.maxTags := by
  unfold locate at h
  cases hw : windowOf a <;> simp only [hw] at h
  case registers => exact absurd h (registerAt_ne_array _ j).1
  case gap => cases h
  case tagArray =>
    split_ifs at h with hj
    rwa [← Location.vlan.inj h]
  all_goals split_ifs at h

/-- A byte of IBUF at an address is one that exists (R35). -/
theorem lt_of_locate_eq_ibuf {p : Params} {a : BusAddr} {k : Nat} (h : locate p a = .ibuf k) : k < p.bufBytes := by
  unfold locate at h
  cases hw : windowOf a <;> simp only [hw] at h
  case registers => exact absurd h (registerAt_ne_array _ k).2
  case gap => cases h
  case inputBuffer =>
    split_ifs at h with hk
    rwa [← Location.ibuf.inj h]
  all_goals split_ifs at h

/-- A host's write keeps the invariant: ILEN and VCOUNT are checked, and the arrays' writes are inside them. -/
theorem inv_busWrite {w : Width} {a : BusAddr} {d : Word} {s t : State} (h : Inv s) (hwrite : busWrite w a d s = .next t) :
    Inv t := by
  obtain ⟨-, -, hloc⟩ := busWrite_next hwrite
  obtain ⟨-, rfl⟩ | ⟨-, hle, rfl⟩ | ⟨-, rfl⟩ | ⟨-, rfl⟩ | ⟨-, rfl⟩ | ⟨-, rfl⟩ | ⟨-, rfl⟩ | ⟨-, hle, rfl⟩ |
    ⟨-, rfl⟩ | ⟨j, hj, rfl⟩ | ⟨k, hk, rfl⟩ | ⟨-, rfl⟩ := writeLocation_next hloc
  case inl => exact inv_issue h d
  · exact { h with ilen_le := hle }
  · exact { h with }
  · exact { h with }
  · exact { h with }
  · exact { h with }
  · exact { h with }
  · exact { h with vcount_le := hle }
  · exact { h with }
  · exact { h with
      vlan_wf := Memory.write_wf j _ h.vlan_wf
      vlan_lt := fun c hc => (Memory.mem_write hc).elim (fun e => e ▸ lt_of_locate_eq_vlan hj) (h.vlan_lt c) }
  · exact { h with
      ibuf_wf := Memory.write_wf k _ h.ibuf_wf
      ibuf_lt := fun c hc => (Memory.mem_write hc).elim (fun e => e ▸ lt_of_locate_eq_ibuf hk) (h.ibuf_lt c) }
  · exact h

theorem inv_busAccess {acc : BusAccess} {s t : State} (h : Inv s) (hacc : busAccess acc s = .next t) : Inv t := by
  cases acc with
  | write w a d => exact inv_busWrite h hacc
  | read w a =>
    obtain ⟨v, rfl⟩ := busRead_next hacc
    exact inv_recordRead h a v

theorem inv_hostMove {s t : State} (h : Inv s) (hmove : hostMove s = .next t) : Inv t := by
  have hrest (rest : List HostStmt) : Inv { s with program := rest } := inv_withHostSide h _ _ _ _
  obtain ⟨-, rfl⟩ | ⟨acc, rest, -, hacc⟩ | ⟨rest, -, rfl⟩ | ⟨rest, v, -, rfl⟩ := hostMove_next hmove
  · exact h
  · exact inv_busAccess (hrest rest) hacc
  · exact inv_resetInput (hrest rest)
  · refine inv_recordRead ?_ _ v
    split
    · exact h
    · exact hrest rest

/-- Settles O60: by the agent whose move the step is. -/
theorem everyStepKeepsTheInvariant : Obligations.EveryStepKeepsTheInvariant := by
  intro s t h hstep
  obtain ⟨-, hblock⟩ | ⟨-, hhost⟩ := step_next hstep
  · exact inv_blockMove (inv_takeTurn h) hblock
  · exact inv_hostMove (inv_takeTurn h) hhost

end Sys2Proof.Machine
end

section
/-! PROOFS. What the six commands leave, what they need and what they read (20_memory.md R59, 60_exceptions.md R206,
70_reset_and_hazards.md R233, 10_state.md R20). -/

namespace Sys2Proof.Machine

open Sys2Proof.Safety

/-- A command changes no input, none of the model's own fields, and uses up no turn of its own (R59). -/
theorem exec_frame {i : Instr} {s t : State} (h : exec i s = .next t) :
    t.ilen = s.ilen ∧ t.ibuf = s.ibuf ∧ t.params = s.params ∧ t.issues = s.issues ∧ t.program = s.program ∧
      t.reads = s.reads ∧ t.turns = s.turns := by
  cases completion_of_exec h <;> exact ⟨rfl, rfl, rfl, rfl, rfl, rfl, rfl⟩

/-- Only VLAN_DEC changes TAG (R104). -/
theorem exec_tag {i : Instr} {s t : State} (h : exec i s = .next t) (hi : i ≠ .vlanDec) : t.tag = s.tag := by
  cases completion_of_exec h with
  | tag g htag => exact absurd htag hi
  | _ => rfl

/-- VLAN_DEC writes no output (R104). -/
theorem exec_vlanDec_output {s t : State} (h : exec .vlanDec s = .next t) : t.obuf = s.obuf ∧ t.olen = s.olen := by
  cases completion_of_exec h with
  | output r hi _ => cases hi
  | frame f hi _ _ => cases hi
  | _ => exact ⟨rfl, rfl⟩

/-- Only a frame decode changes the frame registers and VLAN[] (R149). -/
theorem exec_frameRegisters {i : Instr} {s t : State} (h : exec i s = .next t) (hi : isFrameDecode i = false) :
    t.dstH = s.dstH ∧ t.dstL = s.dstL ∧ t.srcH = s.srcH ∧ t.srcL = s.srcL ∧ t.etype = s.etype ∧ t.vcount = s.vcount ∧
      t.vlan = s.vlan := by
  cases completion_of_exec h with
  | frame f hdec _ _ => rw [hi] at hdec; cases hdec
  | _ => exact ⟨rfl, rfl, rfl, rfl, rfl, rfl, rfl⟩

/-- From the length of a stored output on, OBUF holds no value, if OLEN can count it (R36). -/
theorem read_obuf_writeOutput {r : Bytes} (hlen : r.length < 2 ^ 17) (s : State) {k : Nat}
    (hk : (writeOutput r s).olen.toNat ≤ k) : Memory.read (writeOutput r s).obuf k = none := by
  rw [writeOutput_olen, BitVec.toNat_ofNat, Nat.mod_eq_of_lt hlen] at hk
  rw [writeOutput_obuf, Memory.read_ofList, List.getElem?_eq_none hk]

/-- After a success every OBUF byte from OLEN on holds no value (R36). -/
theorem exec_obuf_above {i : Instr} {s t : State} (h : exec i s = .next t) (hok : t.status.ok = true)
    (hi : i ≠ .vlanDec) (hp : s.params.wf = true) {k : Nat} (hk : t.olen.toNat ≤ k) : Memory.read t.obuf k = none := by
  cases completion_of_exec h with
  | err e => cases hok
  | tag g htag => exact absurd htag hi
  | output r _ hlen =>
    have hmax := bufBytes_le_of_wf hp
    exact read_obuf_writeOutput (by omega) s hk
  | frame f _ hlen _ =>
    have hilen := s.ilen.isLt
    exact read_obuf_writeOutput (by omega) s hk

/-- Settles O37: each part is read off the ways a command completes. -/
theorem commandsLeaveAllElseUnchanged : Obligations.CommandsLeaveAllElseUnchanged := by
  intro i s t h
  obtain ⟨hilen, hibuf, hown⟩ := exec_frame h
  obtain ⟨hparams, hissues, hprogram, hreads, hturns⟩ := hown
  refine ⟨hilen, fun k => by rw [hibuf], hparams, hissues, hprogram, hreads, hturns, exec_tag h, ?vlanDec, ?frame,
    fun hok hi hp k => exec_obuf_above h hok hi hp⟩
  case vlanDec =>
    rintro rfl
    obtain ⟨hobuf, holen⟩ := exec_vlanDec_output h
    exact ⟨fun k => by rw [hobuf], holen⟩
  case frame =>
    intro hdec hdecFcs
    have hi : isFrameDecode i = false := by
      cases i with
      | frmDec => exact absurd rfl hdec
      | frmDecFcs => exact absurd rfl hdecFcs
      | _ => rfl
    obtain ⟨hdstH, hdstL, hsrcH, hsrcL, hetype, hvcount, hvlan⟩ := exec_frameRegisters h hi
    exact ⟨hdstH, hdstL, hsrcH, hsrcL, hetype, hvcount, fun j => by rw [hvlan]⟩

/-- A command that answers a next state has cleared PEND and BUSY (R205, R206). -/
theorem exec_completes {i : Instr} {s t : State} (h : exec i s = .next t) :
    ∃ t, exec i s = .next t ∧ t.pend = none ∧ t.status.busy = false := by
  obtain ⟨hpend, hbusy, -⟩ := completed_of_exec h
  exact ⟨t, h, hpend, hbusy⟩

/-- Settles O35: with its operands each command answers a next state. -/
theorem everyCommandCompletes : Obligations.EveryCommandCompletes := by
  intro s
  refine ⟨?vlanEnc, ?input, ?frame⟩
  case vlanEnc =>
    rintro ⟨g, hg⟩
    exact exec_completes (exec_vlanEnc_of_tag hg)
  case input =>
    rintro ⟨b, hb⟩
    exact ⟨exec_completes (exec_vlanDec_of_holdsInput hb),
      exec_completes (i := .frmDec) (decodeCommand_of_holdsInput frameDecode hb),
      exec_completes (i := .frmDecFcs) (decodeCommand_of_holdsInput frameDecodeFcs hb)⟩
  case frame =>
    rintro ⟨f, hf⟩
    exact ⟨fun hfit => exec_completes (exec_frmEnc_of_holdsFrame hfit hf),
      fun hfit => exec_completes (i := .frmEncFcs) (encodeCommand_of_holdsFrame frameEncodeFcs hfit hf)⟩

/-- Settles O34: a full payload passes the length check, so the wire bytes decode to the frame (O19) and the command loads it. -/
theorem decodeCommandsLoadTheFrameOnTheWire : Obligations.DecodeCommandsLoadTheFrameOnTheWire := by
  intro s f hids hetype hpayload
  have hdec : frameDecode (wireBytes f) = .ok f :=
    (frameDecode_wireBytes hids hetype).trans (if_pos ((payloadAccepted_iff _ _).2 (by omega)))
  refine ⟨fun hb => decodeCommand_of_ok hb hdec hdec le_rfl, fun hb => ?fcs⟩
  case fcs =>
    exact decodeCommand_of_ok hb ((frameDecodeFcs_append_crc _).trans hdec) hdec (by rw [List.length_append]; omega)

/-- Equal results complete alike, when equal values written to the two states leave related results (R205, R206). -/
theorem sameEnd_complete {α : Type} {R : State → State → Prop} {writes : α → State → State} {s₁ s₂ : State}
    (hR : ∀ v, R (completeOk (writes v s₁)) (completeOk (writes v s₂))) (r : Result α) :
    SameEnd R (.next (complete writes r s₁)) (.next (complete writes r s₂)) := by
  cases r with
  | ok v => exact ⟨rfl, fun _ => hR v⟩
  | err e => exact ⟨rfl, fun h => (nomatch h)⟩

theorem Memory.readRun_congr {α : Type} {m₁ m₂ : List (Nat × α)} {i n : Nat}
    (h : ∀ k, k < n → Memory.read m₁ (i + k) = Memory.read m₂ (i + k)) :
    Memory.readRun m₁ i n = Memory.readRun m₂ i n := by
  induction n generalizing i with
  | zero => rfl
  | succ n ih =>
    have htail : Memory.readRun m₁ (i + 1) n = Memory.readRun m₂ (i + 1) n :=
      ih fun k hk => by simpa only [Nat.add_assoc, Nat.add_comm 1 k] using h (k + 1) (by omega)
    have hhead : Memory.read m₁ i = Memory.read m₂ i := h 0 (by omega)
    rw [Memory.readRun, Memory.readRun, hhead, htail]

theorem inputBytes_congr {s₁ s₂ : State} (h : SameInput s₁ s₂) : inputBytes s₁ = inputBytes s₂ := by
  obtain ⟨hilen, hread⟩ := h
  rw [inputBytes, inputBytes, ← hilen]
  exact Memory.readRun_congr fun k hk => by rw [Nat.zero_add]; exact hread k hk

theorem frameOperand_congr {s₁ s₂ : State} (h : SameFrameOperands s₁ s₂) : frameOperand s₁ = frameOperand s₂ := by
  obtain ⟨hdstH, hdstL, hsrcH, hsrcL, hetype, hvcount, hvlan, hinput⟩ := h
  have hdst : dstOperand s₁ = dstOperand s₂ := by rw [dstOperand, dstOperand, hdstH, hdstL]
  have hsrc : srcOperand s₁ = srcOperand s₂ := by rw [srcOperand, srcOperand, hsrcH, hsrcL]
  have hchain : chainOperand s₁ = chainOperand s₂ := by
    rw [chainOperand, chainOperand, ← hvcount]
    exact Memory.readRun_congr fun j hj => by rw [Nat.zero_add]; exact hvlan j hj
  rw [frameOperand, frameOperand, hdst, hsrc, hchain, hetype, inputBytes_congr hinput]

theorem sameEnd_decodeCommand {R : State → State → Prop} {s₁ s₂ : State} (core : Bytes → Result Frame)
    (h : SameInput s₁ s₂) (hR : ∀ f, R (completeOk (writeFrame f s₁)) (completeOk (writeFrame f s₂))) :
    SameEnd R (decodeCommand core s₁) (decodeCommand core s₂) := by
  rw [decodeCommand, decodeCommand, inputBytes_congr h]
  cases inputBytes s₂ with
  | none => exact rfl
  | some b => exact sameEnd_complete hR (core b)

theorem sameEnd_encodeCommand {R : State → State → Prop} {s₁ s₂ : State} (trailer : Nat) (core : Frame → Result Bytes)
    (h : SameFrameOperands s₁ s₂) (hbuf : s₁.params.bufBytes = s₂.params.bufBytes)
    (hR : ∀ r, R (completeOk (writeOutput r s₁)) (completeOk (writeOutput r s₂))) :
    SameEnd R (encodeCommand trailer core s₁) (encodeCommand trailer core s₂) := by
  have hlen : encodedLength trailer s₁ = encodedLength trailer s₂ := by
    obtain ⟨-, -, -, -, -, hvcount, -, hilen, -⟩ := h
    rw [encodedLength, encodedLength, hvcount, hilen]
  rw [encodeCommand, encodeCommand, hlen, hbuf, frameOperand_congr h]
  split_ifs
  · exact rfl
  · cases frameOperand s₂ with
    | none => exact rfl
    | some f => exact sameEnd_complete hR (core f)

/-- Settles O38: the operand forms agree, so the core functions are given the same, and what they write depends on nothing
else. -/
theorem commandsReadOnlyTheirOperands : Obligations.CommandsReadOnlyTheirOperands := by
  intro s₁ s₂
  refine ⟨fun htag => ?vlanEnc, fun hinput => ⟨?vlanDec, ?frameDecode⟩, fun hoperands hbuf => ?frameEncode⟩
  case vlanEnc =>
    rw [exec, exec, execVlanEnc, execVlanEnc, htag]
    cases s₂.tag with
    | none => exact rfl
    | some g => exact sameEnd_complete (fun _ => ⟨rfl, rfl⟩) (vlanEncode g)
  case vlanDec =>
    rw [exec, exec, execVlanDec, execVlanDec, inputBytes_congr hinput]
    cases inputBytes s₂ with
    | none => exact rfl
    | some b => exact sameEnd_complete (s₁ := s₁) (s₂ := s₂) (writes := writeTag) (fun _ => Eq.refl _) (vlanDecode b)
  case frameDecode =>
    rintro i (rfl | rfl)
    · exact sameEnd_decodeCommand frameDecode hinput fun _ => ⟨rfl, rfl, rfl, rfl, rfl, rfl, rfl, rfl, rfl⟩
    · exact sameEnd_decodeCommand frameDecodeFcs hinput fun _ => ⟨rfl, rfl, rfl, rfl, rfl, rfl, rfl, rfl, rfl⟩
  case frameEncode =>
    rintro i (rfl | rfl)
    · exact sameEnd_encodeCommand 0 frameEncode hoperands hbuf fun _ => ⟨rfl, rfl⟩
    · exact sameEnd_encodeCommand 4 frameEncodeFcs hoperands hbuf fun _ => ⟨rfl, rfl⟩

end Sys2Proof.Machine
end

section
/-! PROOFS. Where each part of a frame stands in its encoding (41_frame_encode.md R122, R123). -/

namespace Sys2Proof.Machine

open Sys2Proof.Safety

/-- Settles O13: the one error of the encoder, InvalidVlanId, is raised by a reserved ID only. -/
theorem frameEncodeRejectsReservedIds : Obligations.FrameEncodeRejectsReservedIds := fun f =>
  (frameEncode_eq_err_iff f _).trans (and_iff_left rfl)

theorem chainBytes_append (ts us : List VlanTag) : chainBytes (ts ++ us) = chainBytes ts ++ chainBytes us :=
  List.flatMap_append

/-- Behind the first `j` tags of a chain stand the marker and the body of the next one (R80). -/
theorem drop_chainBytes {ts : List VlanTag} {j : Nat} (hj : j < ts.length) (b : Bytes) :
    (chainBytes ts ++ b).drop (4 * j) =
      be16 vlanMarker ++ (be16 (tciPack ts[j]) ++ (chainBytes (ts.drop (j + 1)) ++ b)) := by
  have hsplit : chainBytes ts = chainBytes (ts.take j) ++ chainBytes (ts[j] :: ts.drop (j + 1)) := by
    rw [← chainBytes_append, ← List.drop_eq_getElem_cons hj, List.take_append_drop]
  have hlen : (chainBytes (ts.take j)).length = 4 * j := by
    rw [length_chainBytes, List.length_take, Nat.min_eq_left hj.le]
  rw [hsplit, List.append_assoc, List.drop_left' hlen, chainBytes_cons]
  simp only [List.append_assoc]

/-- Settles O12: the output is the wire bytes, part behind part, and the padding. -/
theorem frameEncodeLayout : Obligations.FrameEncodeLayout := by
  intro f out h
  obtain ⟨-, hpayload⟩ := frameEncodeLength f out h
  obtain ⟨-, rfl⟩ := (frameEncode_eq_ok_iff f out).1 h
  have hbody (n : Nat) : (wireBytes f ++ padding f.payload).drop (12 + n) =
      (chainBytes f.vlan ++ (be16 f.etype ++ (f.payload ++ padding f.payload))).drop n := by
    rw [← List.drop_drop, drop_wireBytes]
  have hlen : (chainBytes f.vlan).length = 4 * f.vlan.length := length_chainBytes f.vlan
  refine ⟨rfl, rfl, fun j hj => ⟨?marker, ?tag⟩, ?etype, hpayload, ?padding⟩
  case marker =>
    rw [hbody, drop_chainBytes hj]
    exact List.take_left' rfl
  case tag =>
    rw [show 14 + 4 * j = 12 + (4 * j + 2) by omega, hbody, ← List.drop_drop, drop_chainBytes hj,
      List.drop_left' (length_be16 vlanMarker)]
    exact List.take_left' rfl
  case etype =>
    rw [hbody, List.drop_left' hlen]
    exact List.take_left' rfl
  case padding =>
    rw [List.drop_left' (length_wireBytes f)]
    rfl

end Sys2Proof.Machine
end

section
/-! PROOFS. The words of the six commands, by the table and back (30_encoding.md R91). -/

namespace Sys2Proof.Machine

/-- Settles O1: the words of R91's table and of R89's kinds, as the decoder is defined. -/
theorem commandWordsDecode : Obligations.CommandWordsDecode :=
  ⟨decode_vlanEnc, decode_vlanDec, decode_frmEnc, decode_frmDec, decode_frmEncFcs, decode_frmDecFcs, by decide, by decide,
    by decide, by decide⟩

theorem decodeTableWord_eq_some {w : Word} {i : Instr} (h : decode w = .command i) :
    decodeTableWord 32 w.toNat = some i := by
  have hlt : w.toNat < 2 ^ 32 := w.isLt
  have hword : BitVec.ofNat 32 w.toNat = w := by rw [BitVec.ofNat_toNat, BitVec.setWidth_eq]
  rw [decodeTableWord, Nat.mod_eq_of_lt hlt, if_pos hlt, hword, h]

/-- Settles O3: a command's word decodes to it, read as a word or as the table's 32 bits. -/
theorem commandWordsRoundTrip : Obligations.CommandWordsRoundTrip := fun i =>
  ⟨decode_encode i, decodeTableWord_eq_some (decode_encode i)⟩

end Sys2Proof.Machine
end

section
/-! PROOFS. Steps: whose move it is, what it does, and that a pending command is completed (20_memory.md R61,
70_reset_and_hazards.md R244). -/

namespace Sys2Proof.Machine

open Sys2Proof.Safety

theorem step_of_block {s : State} (h : nextAgent s = .block) : step s = blockMove (takeTurn s) := by rw [step, h]

theorem step_of_host {s : State} (h : nextAgent s = .host) : step s = hostMove (takeTurn s) := by rw [step, h]

theorem blockMove_of_command {s : State} {w : Word} {i : Instr} (hp : s.pend = some w) (hd : decode w = .command i) :
    blockMove s = exec i s := by
  simp [blockMove, hp, hd]

/-- With a command pending the block moves when its turn is laid out, or none is (R244; log entry 3). -/
theorem nextAgent_eq_block {s : State} (hp : s.pend.isSome = true) (h : s.turns = [] ∨ s.turns.head? = some .block) :
    nextAgent s = .block := by
  unfold nextAgent
  cases ht : s.turns with
  | nil => exact if_pos hp
  | cons a us => simpa [ht] using h

/-- With no command pending the host moves when no turn is laid out, and always when its own is (log entry 3). -/
theorem nextAgent_eq_host {s : State} (h : s.turns = [] ∧ s.pend = none ∨ s.turns.head? = some .host) :
    nextAgent s = .host := by
  unfold nextAgent
  cases ht : s.turns with
  | nil =>
    simp only [ht, true_and, List.head?_nil, reduceCtorEq, or_false] at h
    simp [h]
  | cons a us => simpa [ht] using h

/-- Settles O39: it is the block's move, and its move is the pending word's. -/
theorem stepRunsTheDecodedCommand : Obligations.StepRunsTheDecodedCommand := by
  intro s w hp hturn
  rw [step_of_block (nextAgent_eq_block (by rw [hp]; rfl) hturn)]
  exact ⟨fun i hd _ => blockMove_of_command hp hd, fun why hd => blockMove_of_illegal hp hd⟩

/-- Settles O40: it is the host's move, and its move is the program's next statement. -/
theorem stepPerformsTheHostsNextStatement : Obligations.StepPerformsTheHostsNextStatement := by
  intro s hturn
  rw [step_of_host (nextAgent_eq_host hturn)]
  refine ⟨fun hprog => ?none, fun acc rest hprog => ?access, fun rest hprog => ⟨?move, ?step⟩⟩
  all_goals simp [hostMove, takeTurn, hprog]

/-- Settles O41: the issued word is the command's, and the block's turn stands first. -/
theorem fetchedWordRunsNext : Obligations.FetchedWordRunsNext := by
  intro s i
  have hword : BitVec.ofNat 32 ((encode i).toNat % 2 ^ 32) = encode i := by
    rw [Nat.mod_eq_of_lt (encode i).isLt, BitVec.ofNat_toNat, BitVec.setWidth_eq]
  rw [State.withFetchWord, hword, step_of_block rfl]
  exact blockMove_of_command rfl (decode_encode i)

/-- No command lists STATUS among its results (R241). -/
@[simp] theorem pendingMayWrite_status (s : State) : pendingMayWrite s .status = false :=
  pendingMayWrite_eq_false (fun i => by cases i <;> rfl) s

/-- A read of STATUS returns it, in any state, with any command pending (R32, R241). -/
theorem hostRead_status (s : State) : hostRead 0x00004#18 s = .next (recordRead 0x00004#18 s.status.word s) :=
  busRead_of_value (w := .w32) (a := 0x00004#18) rfl (.inr (pendingMayWrite_status s)) rfl

/-- Settles O42: the poll is a read of STATUS, with the statement kept or dropped by BUSY. -/
theorem waitPollsUntilIdle : Obligations.WaitPollsUntilIdle := by
  refine ⟨fun s rest hprog => ⟨fun hb => ?busy, fun hb => ?idle⟩, fun _ => rfl⟩
  case busy =>
    rw [hostMove, hprog]
    simp only [hb, if_true]
    exact hostRead_status s
  case idle =>
    rw [hostMove, hprog]
    simp only [hb, Bool.false_eq_true, if_false]
    exact hostRead_status { s with program := rest }

theorem writeLocation_turns {l : Location} {d : Word} {s t : State} (h : writeLocation l d s = .next t) :
    t.turns = s.turns := by
  obtain ⟨-, rfl⟩ | ⟨-, -, rfl⟩ | ⟨-, rfl⟩ | ⟨-, rfl⟩ | ⟨-, rfl⟩ | ⟨-, rfl⟩ | ⟨-, rfl⟩ | ⟨-, -, rfl⟩ |
    ⟨-, rfl⟩ | ⟨j, -, rfl⟩ | ⟨k, -, rfl⟩ | ⟨-, rfl⟩ := writeLocation_next h
  all_goals rfl

theorem blockMove_turns {s t : State} (h : blockMove s = .next t) : t.turns = s.turns := by
  obtain ⟨-, rfl⟩ | ⟨w, i, -, -, hexec⟩ | ⟨w, why, -, -, rfl⟩ := blockMove_next h
  · rfl
  · obtain ⟨-, -, -, -, -, -, hturns⟩ := exec_frame hexec
    exact hturns
  · rfl

theorem hostMove_turns {s t : State} (h : hostMove s = .next t) : t.turns = s.turns := by
  obtain ⟨-, rfl⟩ | ⟨acc, rest, -, hacc⟩ | ⟨rest, -, rfl⟩ | ⟨rest, v, -, rfl⟩ := hostMove_next h
  · rfl
  · cases acc with
    | read w a =>
      obtain ⟨v, rfl⟩ := busRead_next hacc
      rfl
    | write w a d =>
      obtain ⟨-, -, hloc⟩ := busWrite_next hacc
      exact (writeLocation_turns hloc).trans rfl
  · rfl
  · rw [recordRead_turns]
    split <;> rfl

/-- A step uses up exactly one turn of those laid out (log entry 3). -/
theorem step_turns {s t : State} (h : step s = .next t) : t.turns = s.turns.tail := by
  obtain ⟨-, hblock⟩ | ⟨-, hhost⟩ := step_next h
  · exact blockMove_turns hblock
  · exact hostMove_turns hhost

/-- A move of the block that answers a next state leaves no command pending (R205, R206). -/
theorem blockMove_pend {s t : State} (h : blockMove s = .next t) : t.pend = none := by
  obtain ⟨hp, rfl⟩ | ⟨w, i, -, -, hexec⟩ | ⟨w, why, -, -, rfl⟩ := blockMove_next h
  · exact hp
  · obtain ⟨hp, -⟩ := completed_of_exec hexec
    exact hp
  · rfl

/-- After at most `n` steps no command is pending, unless the run has stopped. -/
def CompletesWithin (n : Nat) (s : State) : Prop :=
  ∃ k, k ≤ n ∧ ((∃ t, runSteps k s = .next t ∧ t.pend = none) ∨ ¬ SafeFor k s)

theorem runSteps_succ {s t : State} (h : step s = .next t) (k : Nat) : runSteps (k + 1) s = runSteps k t := by
  rw [runSteps, h]

theorem completesWithin_zero {s : State} (n : Nat) (h : s.pend = none) : CompletesWithin n s :=
  ⟨0, Nat.zero_le n, .inl ⟨s, rfl, h⟩⟩

/-- It is enough to look at the state after one step, if there is one. -/
theorem completesWithin_succ {n : Nat} {s : State} (h : ∀ t, step s = .next t → CompletesWithin n t) :
    CompletesWithin (n + 1) s := by
  cases hstep : step s with
  | next t =>
    obtain ⟨k, hk, hend⟩ := h t hstep
    refine ⟨k + 1, Nat.succ_le_succ hk, ?_⟩
    rwa [SafeFor, runSteps_succ hstep]
  | fault r => exact ⟨1, by omega, .inr (by simp [SafeFor, runSteps, hstep])⟩
  | refused r => exact ⟨1, by omega, .inr (by simp [SafeFor, runSteps, hstep])⟩

/-- Each step uses up one of the turns laid out, and with none left the block completes (R244; log entry 3). -/
theorem completesWithin_turns (us : List Agent) :
    ∀ s : State, s.turns = us → s.pend.isSome = true → CompletesWithin (us.length + 1) s := by
  induction us with
  | nil =>
    intro s hturns hp
    refine completesWithin_succ fun t hstep => completesWithin_zero 0 ?_
    rw [step_of_block (nextAgent_eq_block hp (.inl hturns))] at hstep
    exact blockMove_pend hstep
  | cons a us ih =>
    intro s hturns hp
    refine completesWithin_succ fun t hstep => ?_
    cases hpend : t.pend with
    | none => exact completesWithin_zero _ hpend
    | some w => exact ih t (by rw [step_turns hstep, hturns, List.tail_cons]) (by rw [hpend]; rfl)

/-- Settles O43, by induction on the turns laid out. -/
theorem pendingCommandIsCompleted : Obligations.PendingCommandIsCompleted := fun s hp =>
  completesWithin_turns s.turns s rfl hp

end Sys2Proof.Machine
end

section
/-! PROOFS. The bus: what a read returns, idle and busy, and what an access leaves alone (10_state.md R25, R30 to R39,
20_memory.md R51, R57, 70_reset_and_hazards.md R241). -/

namespace Sys2Proof.Machine

open Sys2Proof.Safety

/-- Settles O46: the registers by their offsets, the arrays by their windows. -/
theorem registerMapPlacesEveryLocation : Obligations.RegisterMapPlacesEveryLocation := fun p =>
  ⟨locate_cmd p, locate_status p, locate_ilen p, locate_olen p, locate_dstH p, locate_dstL p, locate_srcH p,
    locate_srcL p, locate_etype p, locate_vcount p, locate_tag p, fun _ => locate_vlan,
    fun _ hk hk' => ⟨locate_ibuf hk hk', locate_obuf hk hk'⟩⟩

/-- The fields of the STATUS word (R32). -/
theorem Status.word_fields (st : Status) :
    st.word.getLsbD 0 = st.busy ∧ st.word.getLsbD 1 = st.ok ∧ st.word.extractLsb' 2 3 = st.err ∧
      st.word.extractLsb' 5 27 = 0#27 := by
  obtain ⟨busy, ok, err⟩ := st
  revert busy ok err
  decide

/-- Settles O48: a read of STATUS returns its word in any state, and the word has R32's fields. -/
theorem statusWordLayout : Obligations.StatusWordLayout := fun s =>
  ⟨hostRead_status s, Status.word_fields s.status⟩

/-- Settles O51: the accesses are legal, and the write of the location checks the field. -/
theorem lengthAndCountWritesAreBounded : Obligations.LengthAndCountWritesAreBounded := by
  intro s d hb
  have hilen : hostWrite 0x00008#18 d s = writeLocation .ilen d s :=
    busWrite_of_idle (w := .w32) (a := 0x00008#18) rfl hb
  have hvcount : hostWrite 0x00024#18 d s = writeLocation .vcount d s :=
    busWrite_of_idle (w := .w32) (a := 0x00024#18) rfl hb
  rw [hilen, hvcount]
  exact ⟨fun hle => if_pos hle, fun hlt => if_neg (Nat.not_le.2 hlt), fun hle => if_pos hle,
    fun hlt => if_neg (Nat.not_le.2 hlt)⟩

theorem legalAccess_obuf {k : Nat} (hk : k < 65536) : legalAccess .w8 (BitVec.ofNat 18 (0x30000 + k)) = true :=
  (legalAccess_buffers_iff (by rw [BitVec.toNat_ofNat]; omega)).2 rfl

/-- An idle read of a location, by what the location holds (R25). -/
theorem busRead_of_idle {w : Width} {a : BusAddr} {l : Location} {s : State} (hb : s.status.busy = false)
    (hl : legalAccess w a = true) (ha : locate s.params a = l) :
    (readLocation s l = none → busRead w a s = .fault .unwrittenRead) ∧
      ∀ v, readLocation s l = some v → busRead w a s = .next (recordRead a v s) := by
  subst ha
  exact ⟨busRead_of_no_value hl (.inl hb), fun v => busRead_of_value hl (.inl hb)⟩

/-- The same of a location whose value is a field `x` read as a word. -/
theorem busRead_of_idle_field {α : Type} {w : Width} {a : BusAddr} {l : Location} {s : State} {x : Option α}
    {toWord : α → Word} (hb : s.status.busy = false) (hl : legalAccess w a = true) (ha : locate s.params a = l)
    (hx : readLocation s l = x.map toWord) :
    (x = none → busRead w a s = .fault .unwrittenRead) ∧
      ∀ v, x = some v → busRead w a s = .next (recordRead a (toWord v) s) := by
  obtain ⟨hnone, hsome⟩ := busRead_of_idle hb hl ha
  exact ⟨fun h => hnone (by rw [hx, h]; rfl), fun v h => hsome _ (by rw [hx, h]; rfl)⟩

/-- Settles O52: each location stands at its address, and an idle read goes by what it holds. -/
theorem hostReadsOfNoValueFault : Obligations.HostReadsOfNoValueFault := by
  intro s hb
  obtain ⟨hdstH, hdstH'⟩ := busRead_of_idle_field (w := .w32) (x := s.dstH) hb rfl (locate_dstH _) rfl
  obtain ⟨hdstL, hdstL'⟩ := busRead_of_idle (w := .w32) hb rfl (locate_dstL _)
  obtain ⟨hsrcH, hsrcH'⟩ := busRead_of_idle_field (w := .w32) (x := s.srcH) hb rfl (locate_srcH _) rfl
  obtain ⟨hsrcL, hsrcL'⟩ := busRead_of_idle (w := .w32) hb rfl (locate_srcL _)
  obtain ⟨hetype, hetype'⟩ := busRead_of_idle_field (w := .w32) (x := s.etype) hb rfl (locate_etype _) rfl
  obtain ⟨htag, htag'⟩ := busRead_of_idle_field (w := .w32) (x := s.tag) hb rfl (locate_tag _) rfl
  obtain ⟨-, hilen⟩ := busRead_of_idle (w := .w32) hb rfl (locate_ilen _)
  obtain ⟨-, holen⟩ := busRead_of_idle (w := .w32) hb rfl (locate_olen _)
  obtain ⟨-, hvcount⟩ := busRead_of_idle (w := .w32) hb rfl (locate_vcount _)
  refine ⟨hdstH, hdstH', hdstL, hdstL', hsrcH, hsrcH', hsrcL, hsrcL', hetype, hetype', htag, htag', hilen _ rfl,
    holen _ rfl, hvcount _ rfl, fun j hj hj' => ?vlan, fun k hk hk' => ?buffers⟩
  case vlan =>
    exact busRead_of_idle_field (x := Memory.read s.vlan j) hb (legalAccess_vlan hj') (locate_vlan hj hj') rfl
  case buffers =>
    obtain ⟨hin, hin'⟩ :=
      busRead_of_idle_field (x := Memory.read s.ibuf k) hb (legalAccess_ibuf hk') (locate_ibuf hk hk') rfl
    obtain ⟨hout, hout'⟩ :=
      busRead_of_idle_field (x := Memory.read s.obuf k) hb (legalAccess_obuf hk') (locate_obuf hk hk') rfl
    exact ⟨hin, hin', hout, hout'⟩

/-- A read that answers a next state was legal, and recorded a free draw or the location's value (R241). -/
theorem busRead_next_cases {w : Width} {a : BusAddr} {s t : State} (h : busRead w a s = .next t) :
    legalAccess w a = true ∧ ∃ v, t = recordRead a v s ∧
      ((s.status.busy = true ∧ pendingMayWrite s (locate s.params a) = true ∧ v = freeRead s a (locate s.params a)) ∨
        ((s.status.busy = false ∨ pendingMayWrite s (locate s.params a) = false) ∧
          readLocation s (locate s.params a) = some v)) := by
  unfold busRead at h
  split_ifs at h with hl hr
  · rw [Bool.not_eq_true', Bool.not_eq_false] at hl
    obtain ⟨hb, hmay⟩ := (Bool.and_eq_true _ _).mp hr
    cases h
    exact ⟨hl, _, rfl, .inl ⟨hb, hmay, rfl⟩⟩
  · rw [Bool.not_eq_true', Bool.not_eq_false] at hl
    rw [Bool.not_eq_true, Bool.and_eq_false_iff] at hr
    split at h
    · rename_i v hv
      cases h
      exact ⟨hl, v, rfl, .inr ⟨hr, hv⟩⟩
    · cases h

/-- What a location reads as does not depend on the host's side. -/
theorem readLocation_withHostSide (s : State) (l : Location) (r : List HostRead) (p : List HostStmt) (u : List Agent) :
    readLocation { s with reads := r, program := p, turns := u } l = readLocation s l := by
  cases l <;> rfl

/-- A read returns the same value whatever the host's side is (R57). -/
theorem busRead_repeats {w : Width} {a : BusAddr} {s t : State} (h : busRead w a s = .next t) :
    ∃ v, t = recordRead a v s ∧ ∀ (r : List HostRead) (p : List HostStmt) (u : List Agent),
      busRead w a { s with reads := r, program := p, turns := u } =
        .next (recordRead a v { s with reads := r, program := p, turns := u }) := by
  obtain ⟨hl, v, rfl, ⟨hb, hr, rfl⟩ | ⟨hr, hv⟩⟩ := busRead_next_cases h
  · exact ⟨_, rfl, fun r p u => busRead_of_result (s := { s with reads := r, program := p, turns := u }) hl hb hr⟩
  · exact ⟨v, rfl, fun r p u => busRead_of_value (s := { s with reads := r, program := p, turns := u }) hl hr
      ((readLocation_withHostSide s _ r p u).trans hv)⟩

/-- A write of a location leaves every other location's value (R57). -/
theorem readLocation_of_writeLocation {l l' : Location} {d : Word} {s t : State} (hl : l ≠ .cmd)
    (h : writeLocation l d s = .next t) (hne : l' ≠ l) : readLocation t l' = readLocation s l' := by
  obtain ⟨rfl, -⟩ | ⟨rfl, -, rfl⟩ | ⟨rfl, rfl⟩ | ⟨rfl, rfl⟩ | ⟨rfl, rfl⟩ | ⟨rfl, rfl⟩ | ⟨rfl, rfl⟩ | ⟨rfl, -, rfl⟩ |
    ⟨rfl, rfl⟩ | ⟨j, rfl, rfl⟩ | ⟨k, rfl, rfl⟩ | ⟨-, rfl⟩ := writeLocation_next h
  case inl => exact absurd rfl hl
  · cases l' with
    | ilen => exact absurd rfl hne
    | _ => rfl
  · cases l' with
    | dstH => exact absurd rfl hne
    | _ => rfl
  · cases l' with
    | dstL => exact absurd rfl hne
    | _ => rfl
  · cases l' with
    | srcH => exact absurd rfl hne
    | _ => rfl
  · cases l' with
    | srcL => exact absurd rfl hne
    | _ => rfl
  · cases l' with
    | etype => exact absurd rfl hne
    | _ => rfl
  · cases l' with
    | vcount => exact absurd rfl hne
    | _ => rfl
  · cases l' with
    | tag => exact absurd rfl hne
    | _ => rfl
  · cases l' with
    | vlan i => exact congrArg (Option.map _) (Memory.read_write_other _ _ fun e => hne (congrArg _ e))
    | _ => rfl
  · cases l' with
    | ibuf i => exact congrArg (Option.map _) (Memory.read_write_other _ _ fun e => hne (congrArg _ e))
    | _ => rfl
  · rfl

/-- A write of any location but CMD leaves STATUS, PEND and the model's own fields (R57). -/
theorem writeLocation_own {l : Location} {d : Word} {s t : State} (hl : l ≠ .cmd) (h : writeLocation l d s = .next t) :
    t.status = s.status ∧ t.pend = s.pend ∧ t.params = s.params ∧ t.issues = s.issues ∧ t.program = s.program ∧
      t.reads = s.reads ∧ t.turns = s.turns := by
  obtain ⟨rfl, -⟩ | ⟨-, -, rfl⟩ | ⟨-, rfl⟩ | ⟨-, rfl⟩ | ⟨-, rfl⟩ | ⟨-, rfl⟩ | ⟨-, rfl⟩ | ⟨-, -, rfl⟩ |
    ⟨-, rfl⟩ | ⟨j, -, rfl⟩ | ⟨k, -, rfl⟩ | ⟨-, rfl⟩ := writeLocation_next h
  case inl => exact absurd rfl hl
  all_goals exact ⟨rfl, rfl, rfl, rfl, rfl, rfl, rfl⟩

/-- Settles O55: a read only records, and a write either issues or stores in its own location. -/
theorem accessesHaveNoOtherEffect : Obligations.AccessesHaveNoOtherEffect := by
  refine ⟨fun w a s t => busRead_repeats, fun w a d s t h => ?write⟩
  obtain ⟨-, -, hloc⟩ := busWrite_next h
  refine ⟨fun ha => ?issues, fun ha => ?stores⟩
  case issues =>
    subst ha
    exact (Host.Outcome.next.inj hloc).symm
  case stores =>
    have hcmd : locate s.params a ≠ .cmd := fun hc => ha (locate_eq_cmd_iff.1 hc)
    obtain ⟨hstatus, hpend, hparams, hissues, hprogram, hreads, hturns⟩ := writeLocation_own hcmd hloc
    exact ⟨hstatus, hpend, hparams, hissues, hprogram, hreads, hturns,
      fun l hl => readLocation_of_writeLocation hcmd hloc hl⟩

/-- Settles O57: the gap's rule is that of all addresses below the buffers, and legality is looked at before BUSY. -/
theorem busChoicesOfTheModel : Obligations.BusChoicesOfTheModel := by
  intro s w a d
  refine ⟨fun _ hhi => legalAccess_below_buffers_iff (by omega), fun hl => ?legal, fun hl => ?wrong,
    fun hl hb => busWrite_of_busy hl hb d⟩
  case legal =>
    rw [ne_eq, ne_eq, busRead_eq_badAccess_iff, busWrite_eq_badAccess_iff, not_not]
    exact ⟨hl, fun _ => hl⟩
  case wrong =>
    rw [busRead_eq_badAccess_iff, busWrite_eq_badAccess_iff, Bool.not_eq_true]
    exact ⟨hl, hl⟩

theorem pendingMayWrite_of_command {s : State} {w : Word} {i : Instr} (hp : s.pend = some w)
    (hd : decode w = .command i) (l : Location) : pendingMayWrite s l = resultLocation i l := by
  simp only [pendingMayWrite, hp, hd]

theorem pendingMayWrite_of_illegal {s : State} {w : Word} {why : IllegalWord} (hp : s.pend = some w)
    (hd : decode w = .illegal why) (l : Location) : pendingMayWrite s l = false := by
  simp only [pendingMayWrite, hp, hd]

/-- R241's row of VLAN_DEC. -/
theorem resultLocation_vlanDec_eq_false_iff (l : Location) : resultLocation .vlanDec l = false ↔ l ≠ .tag := by
  cases l <;> simp [resultLocation]

/-- R241's row of VLAN_ENC, FRM_ENC and FRM_ENC_FCS. -/
theorem resultLocation_encode_eq_false_iff {i : Instr} (hi : isEncode i = true) (l : Location) :
    resultLocation i l = false ↔ l ≠ .olen ∧ ∀ k, l ≠ .obuf k := by
  cases i with
  | vlanEnc | frmEnc | frmEncFcs => cases l <;> simp [resultLocation]
  | _ => cases hi

/-- R241's row of FRM_DEC and FRM_DEC_FCS, by the locations they may not write. -/
theorem resultLocation_frameDecode_eq_false_iff {i : Instr} (hi : isFrameDecode i = true) (l : Location) :
    resultLocation i l = false ↔
      l = .cmd ∨ l = .status ∨ l = .ilen ∨ l = .tag ∨ l = .unmapped ∨ ∃ k, l = .ibuf k := by
  cases i with
  | frmDec | frmDecFcs => cases l <;> simp [resultLocation, resultLocation.decodeResult]
  | _ => cases hi

/-- The fixed locations are those the pending word may not write (R241). -/
theorem fixedWhilePending_iff {s : State} {w : Word} (hp : s.pend = some w) (l : Location) :
    FixedWhilePending w l ↔ pendingMayWrite s l = false := by
  cases hd : decode w with
  | illegal why => exact ⟨fun _ => pendingMayWrite_of_illegal hp hd l, fun _ => .inl ⟨why, hd⟩⟩
  | command i =>
    rw [pendingMayWrite_of_command hp hd]
    cases i with
    | vlanDec => simp [FixedWhilePending, hd, resultLocation_vlanDec_eq_false_iff]
    | vlanEnc | frmEnc | frmEncFcs =>
      rw [resultLocation_encode_eq_false_iff rfl]
      simp [FixedWhilePending, hd]
    | frmDec | frmDecFcs =>
      rw [resultLocation_frameDecode_eq_false_iff rfl]
      simp [FixedWhilePending, hd]

/-- A legal STATUS with BUSY = 1 has OK = 0 and ERR = 0 (R32). -/
theorem Status.word_of_busy {st : Status} (hb : st.busy = true) (hlegal : st.legal = true) : st.word = 1#32 := by
  obtain ⟨busy, ok, err⟩ := st
  revert busy ok err
  decide

/-- Settles O58: by whether the pending word may write the location. -/
theorem readsWhileBusy : Obligations.ReadsWhileBusy := by
  intro s w hb hlegal hp
  refine ⟨?status, fun wd a hl => ⟨fun hresult => ?result, fun hfixed => ?fixed⟩⟩
  case status =>
    rw [hostRead_status, Status.word_of_busy hb hlegal]
  case result =>
    rw [fixedWhilePending_iff hp, Bool.not_eq_false] at hresult
    exact ⟨_, busRead_of_result hl hb hresult⟩
  case fixed =>
    rw [fixedWhilePending_iff hp] at hfixed
    exact ⟨fun v => busRead_of_value hl (.inr hfixed), busRead_of_no_value hl (.inr hfixed)⟩

end Sys2Proof.Machine
end
